-- ==== Sys2Proof/Word.lean ====
section
/-! DEFINITION. The widths of R8 as named constants, and the bit-vector types of the bridge core. Bit 0 is the least significant bit and every quantity is
unsigned (R10). Index arithmetic modulo `C = 4096` is the wrapping arithmetic of a 12-bit vector (R118). -/

namespace Sys2Proof

namespace Config

/-- Width in bits of `head`, `tail`, `head_r`, `tail_w` (R8). The ring's capacity is `2 ^ AW` (R9). -/
abbrev AW : Nat := 12

/-- Width in bits of `now_ms`, `last_activity`, `led_last` (R8). -/
abbrev TW : Nat := 32

/-- Width in bits of `led_phase` (R8). -/
abbrev PW : Nat := 8

/-- Width in bits of `lc_baud` and `baud_cfg` (R8). -/
abbrev BW : Nat := 32

/-- Width in bits of a command word (R8). The tables of R90 to R98 place their bits in a word of this width, so another
width takes other tables. -/
abbrev CW : Nat := 16

end Config

/-- One byte of data: a cell of the ring storage, a UART character, a USB byte (R62). -/
abbrev Byte := BitVec 8

/-- A command word or a response word, `CW = 16` bits (R90, R98). -/
abbrev Word := BitVec Config.CW

/-- A ring index, `AW = 12` bits: `head`, `tail`, `head_r`, `tail_w` (R20). -/
abbrev Index := BitVec Config.AW

/-- A time in milliseconds, `TW = 32` bits: `now_ms`, `last_activity`, `led_last` (R28, R36). -/
abbrev Millis := BitVec Config.TW

/-- A baud rate, `BW = 32` bits: `lc_baud`, `baud_cfg` (R31, R33). -/
abbrev Baud := BitVec Config.BW

/-- The phase counter of the indicator, `PW = 8` bits: `led_phase` (R30). -/
abbrev Phase := BitVec Config.PW

/-- A count of 0 to 64, held in 7 bits: `eg_k`, `eg_got`, `eg_acc`, `in_n` (R37). -/
abbrev Count := BitVec 7

end Sys2Proof
end

