-- ==== Sys2Proof/Syntax.lean ====
section
/-! DEFINITION. The sixteen operations of the two operation ports, one constructor per row of the opcode table (R92),
the ports and port classes (R91), the mnemonics (R92) and the pseudo-operations (R102). -/

namespace Sys2Proof

/-- The two operation ports of the block: `w_cmd` of the W domain and `r_cmd` of the R domain (R40, R91). -/
inductive Port where
  | w
  | r
deriving DecidableEq, Repr, Inhabited

/-- The port class of an opcode (R91): legal on the W port only, on the R port only, or on either. -/
inductive PortClass where
  | w
  | r
  | x
deriving DecidableEq, Repr

/-- An operation of the block, with its operand where the format has one (R90, R92). -/
inductive Instr where
  /-- `NOP`, the idle word (R110). -/
  | nop
  /-- `PUT b`: enqueue one byte (R111). -/
  | put (b : Byte)
  /-- `TOUCHW`: stamp the Activity Clock from the W domain (R131). -/
  | touchw
  /-- `RXBYTE`: move one byte from the UART to the ring buffer (R141). -/
  | rxbyte
  /-- `BAUD`: the baud negotiation handler (R171). -/
  | baud
  /-- `GET`: dequeue one byte (R113). -/
  | get
  /-- `AVAIL`: the number of bytes visible to the consumer (R116). -/
  | avail
  /-- `PEEK i`: read the `i`-th visible byte without releasing it (R114). -/
  | peek (i : BitVec 6)
  /-- `ADV`: release one byte (R115). -/
  | adv
  /-- `TOUCHR`: stamp the Activity Clock from the R domain (R131). -/
  | touchr
  /-- `SVC`: service the USB stack, then at most one baud request (R203). -/
  | svc
  /-- `BANNER`: the one-shot session banner (R191). -/
  | banner
  /-- `EGRESS`: the UART to USB task (R151). -/
  | egress
  /-- `INGRESS`: the USB to UART task (R161). -/
  | ingress
  /-- `INDIC`: the status indicator (R181). -/
  | indic
  /-- `BOOT`: the start-up sequence (R205). -/
  | boot
deriving DecidableEq, Repr, Inhabited

/-- The class column of the opcode table (R92). -/
def Instr.portClass : Instr → PortClass
  | .nop => .x
  | .put _ => .w
  | .touchw => .w
  | .rxbyte => .w
  | .baud => .r
  | .get => .r
  | .avail => .r
  | .peek _ => .r
  | .adv => .r
  | .touchr => .r
  | .svc => .r
  | .banner => .r
  | .egress => .r
  | .ingress => .r
  | .indic => .r
  | .boot => .r

/-- Whether an operation is a primitive, one atomic step, or a sequencer operation, a list of micro-steps (R14). -/
def Instr.isPrimitive : Instr → Bool
  | .nop => true
  | .put _ => true
  | .touchw => true
  | .rxbyte => false
  | .baud => true
  | .get => true
  | .avail => true
  | .peek _ => true
  | .adv => true
  | .touchr => true
  | .svc => false
  | .banner => false
  | .egress => false
  | .ingress => false
  | .indic => false
  | .boot => false

/-- The mnemonic column of the opcode table, in capitals (R92, R101). -/
def Instr.mnemonic : Instr → String
  | .nop => "NOP"
  | .put _ => "PUT"
  | .touchw => "TOUCHW"
  | .rxbyte => "RXBYTE"
  | .baud => "BAUD"
  | .get => "GET"
  | .avail => "AVAIL"
  | .peek _ => "PEEK"
  | .adv => "ADV"
  | .touchr => "TOUCHR"
  | .svc => "SVC"
  | .banner => "BANNER"
  | .egress => "EGRESS"
  | .ingress => "INGRESS"
  | .indic => "INDIC"
  | .boot => "BOOT"

/-- The port name of a listing line (R101). -/
def Port.text : Port → String
  | .w => "W"
  | .r => "R"

/-- The pseudo-operations of R102. `isr` is the body of the handler, RXBYTE repeated while `uart_rx_avail = 1`; how often
that is depends on the state (`runPseudo`). -/
inductive Pseudo where
  | commit (n : Nat)
  | iter
  | isr
  | puts (bs : List Byte)
deriving DecidableEq, Repr

/-- The port a pseudo-operation belongs to (R102). -/
def Pseudo.port : Pseudo → Port
  | .commit _ => .r
  | .iter => .r
  | .isr => .w
  | .puts _ => .w

/-- The expansion column of R102, where `uart_rx_avail` is 1 at `found` tests in succession (ISR alone asks). -/
def Pseudo.expand (found : Nat) : Pseudo → List Instr
  | .commit n => List.replicate n .adv
  | .iter => [.svc, .banner, .egress, .ingress, .indic]
  | .isr => List.replicate found .rxbyte
  | .puts bs => bs.map .put

end Sys2Proof
end

