-- ==== Sys2Proof/WellFormed.lean ====
section
/-! DEFINITION. Which operations may be presented on which port (R91, R95 d and e), and which pseudo-operations are
well formed (R102). An operand of `Instr` has exactly the width of its field, so the operation itself carries no
further check: the words with reserved bits set (R95 a to c) are refused by the decoder and have no `Instr`. -/

namespace Sys2Proof

/-- A port class admits a port (R91). -/
def PortClass.admits : PortClass → Port → Bool
  | .w, .w => true
  | .w, .r => false
  | .r, .w => false
  | .r, .r => true
  | .x, _ => true

/-- An operation is legal on a port iff its class admits the port (R91, R95 d, e). -/
def WellFormed (p : Port) (i : Instr) : Bool := i.portClass.admits p

/-- `COMMIT n` is written with `0 <= n <= 64`, `PUTS` with at least one byte (R102). -/
def Pseudo.wellFormed : Pseudo → Bool
  | .commit n => decide (n ≤ 64)
  | .iter => true
  | .isr => true
  | .puts bs => !bs.isEmpty

end Sys2Proof
end

