-- ==== Sys2Proof/Decode.lean ====
section
/-! DEFINITION. The decoder and the encoder of the command word (R90 to R95, R100). One word is one operation; the
decoder reads the opcode and checks the format's zero bits and the port class. The listing line of R101 stands at the end. -/

namespace Sys2Proof

/-- Why a word is illegal (R95): a reserved bit of `arg` is set (cases a to c), or the word's class does not admit the
port it was presented on (cases d, e). All sixteen opcodes are assigned, so there is no third reason. -/
inductive Illegal where
  | reservedArg
  | wrongPort
deriving DecidableEq, Repr

/-- `op`, bits 15 to 12 (R90). -/
def opField (w : Word) : BitVec 4 := w.extractLsb' 12 4

/-- `arg`, bits 11 to 0 (R90). -/
def argField (w : Word) : BitVec 12 := w.extractLsb' 0 12

/-- The byte operand of PUT, `arg[7:0]` (R94). -/
def byteField (w : Word) : Byte := w.extractLsb' 0 8

/-- The index operand of PEEK, `arg[5:0]` (R94). -/
def indexField (w : Word) : BitVec 6 := w.extractLsb' 0 6

/-- Format Z: `arg` is zero, else the word is illegal (R90, R95 a). -/
def decodeZ (w : Word) (i : Instr) : Except Illegal Instr :=
  if argField w = 0#12 then .ok i else .error .reservedArg

/-- Format B: `arg[11:8]` is zero, else the word is illegal (R90, R95 b). -/
def decodeB (w : Word) (i : Byte → Instr) : Except Illegal Instr :=
  if w.extractLsb' 8 4 = 0#4 then .ok (i (byteField w)) else .error .reservedArg

/-- Format I: `arg[11:6]` is zero, else the word is illegal (R90, R95 c). -/
def decodeI (w : Word) (i : BitVec 6 → Instr) : Except Illegal Instr :=
  if w.extractLsb' 6 6 = 0#6 then .ok (i (indexField w)) else .error .reservedArg

/-- The operation a word spells, whatever the port (R92, R95 a to c). -/
def decodeWord (w : Word) : Except Illegal Instr :=
  match (opField w).toNat with
  | 0x0 => decodeZ w .nop
  | 0x1 => decodeB w .put
  | 0x2 => decodeZ w .touchw
  | 0x3 => decodeZ w .rxbyte
  | 0x4 => decodeZ w .baud
  | 0x5 => decodeZ w .get
  | 0x6 => decodeZ w .avail
  | 0x7 => decodeI w .peek
  | 0x8 => decodeZ w .adv
  | 0x9 => decodeZ w .touchr
  | 0xA => decodeZ w .svc
  | 0xB => decodeZ w .banner
  | 0xC => decodeZ w .egress
  | 0xD => decodeZ w .ingress
  | 0xE => decodeZ w .indic
  | _ => decodeZ w .boot

/-- The operation a word presented on a port spells: the fields first, then the port class (R95, R100). -/
def decode (p : Port) (w : Word) : Except Illegal Instr :=
  match decodeWord w with
  | .error e => .error e
  | .ok i => if WellFormed p i then .ok i else .error .wrongPort

/-- The word of an operation, from the match column and the operand positions of R92 and R94. -/
def encode : Instr → Word
  | .nop => 0x0000#16
  | .put b => 0x10#8 ++ b
  | .touchw => 0x2000#16
  | .rxbyte => 0x3000#16
  | .baud => 0x4000#16
  | .get => 0x5000#16
  | .avail => 0x6000#16
  | .peek i => 0x1C0#10 ++ i
  | .adv => 0x8000#16
  | .touchr => 0x9000#16
  | .svc => 0xA000#16
  | .banner => 0xB000#16
  | .egress => 0xC000#16
  | .ingress => 0xD000#16
  | .indic => 0xE000#16
  | .boot => 0xF000#16

/-- The match column of R92. -/
def tableMatch : Instr → Word
  | .nop => 0x0000#16
  | .put _ => 0x1000#16
  | .touchw => 0x2000#16
  | .rxbyte => 0x3000#16
  | .baud => 0x4000#16
  | .get => 0x5000#16
  | .avail => 0x6000#16
  | .peek _ => 0x7000#16
  | .adv => 0x8000#16
  | .touchr => 0x9000#16
  | .svc => 0xA000#16
  | .banner => 0xB000#16
  | .egress => 0xC000#16
  | .ingress => 0xD000#16
  | .indic => 0xE000#16
  | .boot => 0xF000#16

/-- The mask column of R92. -/
def tableMask : Instr → Word
  | .put _ => 0xFF00#16
  | .peek _ => 0xFFC0#16
  | _ => 0xFFFF#16

/-- A hexadecimal digit, in capitals as the spec writes words. -/
def hexDigit (n : Nat) : Char :=
  if n < 10 then Char.ofNat (48 + n) else Char.ofNat (55 + n)

/-- The `k` low hexadecimal digits of a number, the highest first. -/
def hexDigits : Nat → Nat → List Char
  | 0, _ => []
  | k + 1, n => hexDigits k (n / 16) ++ [hexDigit (n % 16)]

/-- The operand of a listing line: the byte of PUT as `0x00` to `0xFF`, the offset of PEEK in decimal (R101). -/
def operandText : Instr → String
  | .put b => " 0x" ++ String.ofList (hexDigits 2 b.toNat)
  | .peek i => " " ++ toString i.toNat
  | _ => ""

/-- A listing line `<port>: <MNEMONIC> [<operand>]   ; <word>` (R101). -/
def listingLine (p : Port) (i : Instr) : String :=
  p.text ++ ": " ++ i.mnemonic ++ operandText i ++ "   ; 0x" ++ String.ofList (hexDigits 4 (encode i).toNat)

/-- The host's question: the operation that the `nbits` low bits of `w` spell, every bit above them zero. A word is
presented whole on a port (R62), so no byte order enters; a number that does not fit 16 bits is no word. -/
def decodeTableWord (nbits w : Nat) : Option Instr :=
  let v := w % 2 ^ nbits
  if v < 2 ^ Config.CW then
    match decodeWord (BitVec.ofNat Config.CW v) with
    | .ok i => some i
    | .error _ => none
  else none

end Sys2Proof
end

