-- ==== Sys2Proof/Config.lean ====
section
/-! DEFINITION. The parameters of R8 as named constants, each value in this one place (the widths stand in Word.lean),
the OPEN parameters as constants without a body, and the free values: what the schedule, the environment and unwritten
storage may choose. Nothing in Lean can prove a value of a constant without a body, so what is proved holds for every
choice. -/

namespace Sys2Proof

/-- Cross-domain visibility of the indices (R8, R70). -/
inductive SyncMode where
  | lagged
  | immediate
deriving DecidableEq, Repr

/-- One step of an agent other than the harness (R12): a step of the W or the R sequencer, a step of a synchroniser, a
millisecond, or a byte `b` arriving on the UART line (EnvA). EnvB has no step of its own: it acts inside
`usb.service()` (R244). `txReady` is Collaborator A moving the input `uart_tx_ready` (R40), which R12 names no agent for
(DESIGN CHOICE, log 32). -/
inductive AgentTurn where
  | w
  | r
  | syncH
  | syncT
  | time
  | rx (b : Byte)
  | txReady (ready : Bool)
deriving DecidableEq, Repr, Inhabited

/-- A turn of the machine: an agent's step, or a harness presenting a command word on a port (R99). -/
inductive Turn where
  | agent (a : AgentTurn)
  | harness (p : Port) (w : Word)
deriving DecidableEq, Repr, Inhabited

/-- What EnvB does inside one `usb.service()` (R244): the connection afterwards, the transmit space it would raise
`usb_space` to, the host bytes that arrive, and the line-coding requests the host makes, oldest first (R203 c). -/
structure HostAct where
  connected : Bool
  space : Nat
  bytes : List Byte
  requests : List Baud
deriving DecidableEq, Repr, Inhabited

namespace Config

/-- Capacity of the ring storage in bytes, `2 ^ AW = 4096` (R8, R9). -/
def C : Nat := 2 ^ AW

/-- Most bytes one EGRESS sends and one INGRESS reads (R8). PEEK's 6-bit index admits at most 64 (R94), as do the
7-bit counts of R37. -/
def CHUNK : Nat := 64

/-- Minimum interval between two indicator evaluations, in milliseconds (R8). -/
def T_GATE : Millis := 100#TW

/-- Activity window, in milliseconds (R8). -/
def T_ACTIVE : Millis := 200#TW

/-- Bit of the phase counter that drives the output in BREATHE_IDLE (R8). -/
def PHASE_BIT : Nat := 2

/-- Largest accepted baud request (R8). -/
def BAUD_MAX : Baud := 921600#BW

/-- Baud rate set at start-up (R8). -/
def BAUD_DEFAULT : Baud := 115200#BW

/-- Data bits of `uart.init` (R205). -/
def DATA_BITS : Nat := 8

/-- Stop bits of `uart.init` (R205). -/
def STOP_BITS : Nat := 1

/-- The normative visibility setting (R8, R70). -/
def SYNC : SyncMode := .lagged

/-- Flip-flop stages of each pointer synchroniser: implementation timing, no rule depends on it (R8, R288). -/
def SYNC_STAGES : Nat := 2

/-- OPEN: the first byte of the banner. Any byte; splitting it off makes `BL >= 1` hold of every choice (R194). -/
opaque bannerFirst : Byte

/-- OPEN: the rest of the banner (R194). -/
opaque bannerRest : List Byte

/-- The banner text, a constant list of `BL >= 1` bytes (R8, R194). -/
def BANNER : List Byte := bannerFirst :: bannerRest

/-- `BL`, the length of the banner (R8). -/
def BL : Nat := BANNER.length

/-- OPEN: the depth of the UART receive FIFO less one (R8). -/
opaque uartFifoExtra : Nat

/-- The depth of the UART receive FIFO, at least 1 (R8, R241). -/
def UART_FIFO_DEPTH : Nat := uartFifoExtra + 1

/-- OPEN: by how much the USB transmit buffer exceeds the larger of `BL` and `CHUNK` (R8). -/
opaque usbTxExtra : Nat

/-- The capacity of the USB transmit buffer, at least `BL` and at least `CHUNK` (R8, R244). -/
def USB_TXBUF : Nat := max BL CHUNK + usbTxExtra

/-- FREE VALUE: the contents of a cell of `buf` that nothing has written since reset (R38, U1). -/
opaque bufReset : Nat → Byte

/-- FREE VALUE: what `lc_baud` shows while `lc_valid = 0`, per draw (R171 i, U21). -/
opaque idleBaud : Nat → Baud

/-- FREE VALUE: the agent that moves next where no turn is decided, per draw (R12, R70, R236, R241). -/
opaque agentTurn : Nat → AgentTurn

/-- FREE VALUE: what EnvB does in a `usb.service()` where nothing is decided, per draw (R244, U14). -/
opaque hostAct : Nat → HostAct

end Config

end Sys2Proof
end

