-- ==== Sys2Proof/Machine/State.lean ====
section
/-! DEFINITION. The state of the block and of its environment as plain data, the state after reset, and the ways a
step can stop. Every register of R35 has one field; the inputs and the collaborators' state are those that R39, R40,
R240 and R244 say a model needs; `Env` is the model's own (log 1, 13). -/

namespace Sys2Proof.Machine

/-- The ring storage as (index, byte) pairs, indices strictly rising and below `C`. An index that is not listed has not
been written since reset (R38); what it reads as is `memRead`'s free value. -/
abbrev Memory := List Host.Cell

/-- The ring buffer: the four index registers (R20) and the storage (R38). -/
structure Ring where
  head : Index
  tail : Index
  headR : Index
  tailW : Index
  buf : Memory
deriving DecidableEq, Repr

/-- `isr_state`, 1 bit, `IDLE = 0`, `DRAIN = 1` (R26). -/
inductive IsrState where
  | idle
  | drain
deriving DecidableEq, Repr

/-- Where the W domain stands inside RXBYTE (R141): `idle` when none is in progress, so that the next word starts at its
first micro-step, else the label of the next micro-step. -/
inductive WStep where
  | idle
  | x1
  | x2
  | x3
deriving DecidableEq, Repr

/-- `ustep`, the micro-step position in the R domain (R25): `idle` when no operation is in progress, which is the first
micro-step (`S0`, `B0`, `E0`, `I0`, `L0`, `T0`) of whatever word comes next, else the label of the next micro-step.
`e5 i` is the PEEK with loop index `i`, `e8 j` the ADV after `j` of them, `i3 j` the UART write of `in_buf[j]`. -/
inductive UStep where
  | idle
  | s1
  | b1
  | b2
  | b3
  | b4
  | e1
  | e2
  | e3
  | e4
  | e5 (i : BitVec 6)
  | e6
  | e7
  | e8 (j : Count)
  | i1
  | i2
  | i3 (j : BitVec 6)
  | i4
  | l1
  | l2
  | l3
  | l4
  | t1
  | t2
deriving DecidableEq, Repr

/-- The Status Indicator State (R30): `led_mode`, `led_phase`, `led_last`, `led_out`. -/
structure Led where
  mode : BitVec 2
  phase : Phase
  last : Millis
  out : Bool
deriving DecidableEq, Repr

/-- The private working registers of R37. `egBuf` and `inBuf` hold `CHUNK = 64` bytes. -/
structure Scratch where
  rxd : Byte
  egBuf : List Byte
  egA : Index
  egS : Nat
  egK : Count
  egGot : Count
  egAcc : Count
  inBuf : List Byte
  inN : Count
  tNow : Millis
  tLa : Millis
deriving DecidableEq, Repr

/-- Parity settings of `uart.init`; the block only ever asks for none (R205, R243). -/
inductive Parity where
  | none
  | even
  | odd
deriving DecidableEq, Repr

/-- What `uart.init` fixes besides the rate (R243). -/
structure Frame where
  dataBits : Nat
  stopBits : Nat
  parity : Parity
deriving DecidableEq, Repr

/-- Collaborator A, the UART (R240): the receive FIFO `urx`, oldest first; the transmit stream `utx`, oldest first; the
configured rate; the frame, none before `uart.init`; the FIFO enable; and the input `uart_tx_ready`, high while the UART
takes a byte (R40, log 32). -/
structure Uart where
  rx : List Byte
  tx : List Byte
  rate : Baud
  frame : Option Frame
  fifoOn : Bool
  txReady : Bool
deriving DecidableEq, Repr

/-- An item of the USB transmit stream: a byte accepted by `write`, or the position of a `flush` (R244). -/
inductive UsbItem where
  | byte (b : Byte)
  | flush
deriving DecidableEq, Repr

/-- Collaborator B, the USB serial stack (R244): `usb_connected`, `usb_space`, `usb_tx` oldest first, `usb_rx` oldest
first, the mailbox `lc_valid` and `lc_baud` (R33), and the requests not yet presented, oldest first (R203 c). -/
structure Usb where
  connected : Bool
  space : Nat
  tx : List UsbItem
  rx : List Byte
  lcValid : Bool
  lcBaud : Baud
  lcQueue : List Baud
deriving DecidableEq, Repr

/-- The call strobes of R40 with the data that stands beside them: `none` or `false` is a strobe at 0. They show the
calls of the last step (log 5). -/
structure Strobes where
  uartInit : Option Baud
  uartFifoEn : Bool
  uartSetBaud : Option Baud
  uartRxPop : Bool
  uartTxPush : Option Byte
  usbService : Bool
  usbWr : Option (List Byte)
  usbFlush : Bool
  usbRd : Bool
  lcAck : Bool
deriving DecidableEq, Repr

/-- The two operation ports (R40): the word and its valid line, which show the last step, and the last response (log 5). -/
structure Ports where
  wCmd : Word
  wCmdValid : Bool
  wResp : Word
  rCmd : Word
  rCmdValid : Bool
  rResp : Word
deriving DecidableEq, Repr

/-- The model's own fields: the turns already decided, what EnvB does in the coming services, and how many free values
have been drawn (log 1, 13). -/
structure Env where
  turns : List Turn
  hostActs : List HostAct
  draws : Nat
deriving DecidableEq, Repr

/-- The state of the block and its environment. -/
structure State where
  ring : Ring
  schedStep : BitVec 3
  ustep : UStep
  isrState : IsrState
  wstep : WStep
  irqEn : Bool
  lastActivity : Millis
  bannerSent : Bool
  led : Led
  baudCfg : Baud
  scratch : Scratch
  nowMs : Millis
  uart : Uart
  usb : Usb
  strobes : Strobes
  ports : Ports
  env : Env
deriving DecidableEq, Repr

/-- Why the machine stops with a fault. No constructor: "No operation of the block traps" (R220), and nothing in the
block is `fault` or `stuck` (93_implementation_defined.md section 1). Nobody raises one. Safe: the type is empty. -/
inductive Fault where
deriving DecidableEq, Repr

/-- Why the model gives a step no meaning. Each but the first is a case for which the spec itself says `refuse` or says
that the case does not arise; a refusal is safe, it only makes claims unprovable. -/
inductive Refusal where
  /-- An instruction without a meaning. Raised by no arm of this model. Safe. -/
  | notModelled (mnemonic : String)
  /-- BOOT presented when a BOOT has finished: "a model should refuse a second BOOT" (R205 d, U19). Raised by BOOT at
  its first micro-step. Safe. -/
  | secondBoot
  /-- A word presented while an operation is in progress on that port (R99, U20). Raised by the harness turn, and by a
  sequencer operation found in the middle of another. Safe. -/
  | portBusy
  /-- A word presented on the W port while the handler runs or its interrupt is enabled (R99, U20). Raised by the harness
  turn. Safe. -/
  | handlerEnabled
  /-- `usb.write` or `usb.read` while `usb_connected = 0`: the block never calls it then (R246, U15). Raised by BANNER B2,
  EGRESS E6 and INGRESS I2, and unreachable from reset. Safe. -/
  | hostAbsent
  /-- `uart.read_byte()` on an empty FIFO: it is called only when `uart_rx_avail = 1` (R241). Raised by RXBYTE X1, and
  unreachable from reset. Safe. -/
  | uartEmpty
  /-- `sched_step` holds 6 or 7, "unreachable and reserved" (R24). Raised by the R sequencer, and unreachable from
  reset. Safe. -/
  | reservedSchedStep
deriving DecidableEq, Repr

/-- All strobes at 0 (R41, R260). -/
def Strobes.quiet : Strobes :=
  { uartInit := none, uartFifoEn := false, uartSetBaud := none, uartRxPop := false, uartTxPush := none,
    usbService := false, usbWr := none, usbFlush := false, usbRd := false, lcAck := false }

/-- The machine right after reset (R41, R260, R262), with the values the spec leaves unspecified as log 7 to 10
and 32 name them: zero for the private registers, the port words, `lc_baud` and the UART rate, `uart_tx_ready` high. The
USB transmit buffer is empty, so `usb_space` is all of it (R279, log 10). -/
def State.reset : State :=
  { ring := { head := 0#Config.AW, tail := 0#Config.AW, headR := 0#Config.AW, tailW := 0#Config.AW, buf := [] }
    schedStep := 0#3
    ustep := .idle
    isrState := .idle
    wstep := .idle
    irqEn := false
    lastActivity := 0#Config.TW
    bannerSent := false
    led := { mode := 2#2, phase := 0#Config.PW, last := 0#Config.TW, out := false }
    baudCfg := 0#Config.BW
    scratch :=
      { rxd := 0#8, egBuf := List.replicate Config.CHUNK 0#8, egA := 0#Config.AW, egS := 0, egK := 0#7,
        egGot := 0#7, egAcc := 0#7, inBuf := List.replicate Config.CHUNK 0#8, inN := 0#7, tNow := 0#Config.TW, tLa := 0#Config.TW }
    nowMs := 0#Config.TW
    uart := { rx := [], tx := [], rate := 0#Config.BW, frame := none, fifoOn := false, txReady := true }
    usb :=
      { connected := false, space := Config.USB_TXBUF, tx := [], rx := [], lcValid := false, lcBaud := 0#Config.BW,
        lcQueue := [] }
    strobes := Strobes.quiet
    ports :=
      { wCmd := 0#Config.CW, wCmdValid := false, wResp := 0#Config.CW,
        rCmd := 0#Config.CW, rCmdValid := false, rResp := 0#Config.CW }
    env := { turns := [], hostActs := [], draws := 0 } }

end Sys2Proof.Machine
end

