-- ==== Sys2Proof/Machine/Ops.lean ====
section
/-! DEFINITION. The named operations over the storage, the registers, the synchronisers, the time base, the ports and
the two collaborators, and the entry and return of the receive interrupt. Every meaning reaches the state through
these. -/

namespace Sys2Proof.Machine

/-! ## The ring storage (R38, R60) -/

/-- What the list says of an index: the byte last written there, or nothing if no byte was written since reset. -/
def Memory.lookup : Memory → Nat → Option Byte
  | [], _ => none
  | c :: m, a => if c.1 = a then some c.2 else Memory.lookup m a

/-- The list after a byte is written at an index, still in rising order. -/
def Memory.store : Memory → Nat → Byte → Memory
  | [], a, b => [(a, b)]
  | c :: m, a, b =>
    if a < c.1 then (a, b) :: c :: m
    else if a = c.1 then (a, b) :: m
    else c :: Memory.store m a b

/-- The canonical form: indices strictly rising and inside the storage (R60). -/
abbrev Memory.wf (m : Memory) : Prop :=
  m.Pairwise (fun c d => c.1 < d.1) ∧ ∀ c ∈ m, c.1 < Config.C

/-- `MemRead(a, 1)` (R11). A cell that nothing has written since reset reads as the free value of that cell (R38, U1,
log 7). -/
def memRead (s : State) (a : Index) : Byte :=
  (Memory.lookup s.ring.buf a.toNat).getD (Config.bufReset a.toNat)

/-- `MemWrite(a, 1, v)` (R11). -/
def memWrite (s : State) (a : Index) (v : Byte) : State :=
  { s with ring := { s.ring with buf := Memory.store s.ring.buf a.toNat v } }

/-! ## The index registers (R20, R21) and the synchronisers (R70) -/

/-- The successor of an index modulo `C` (R61, R118). -/
def nextIndex (x : Index) : Index := x + 1#Config.AW

/-- `(a - b) mod C` (R118). -/
def indexDiff (a b : Index) : Index := a - b

/-- A step of SyncH: `head_r <- head` (R70). -/
def syncH (s : State) : State := { s with ring := { s.ring with headR := s.ring.head } }

/-- A step of SyncT: `tail_w <- tail` (R70). -/
def syncT (s : State) : State := { s with ring := { s.ring with tailW := s.ring.tail } }

/-- A write of `head`, with a SyncH step fused to it under `SYNC = immediate` (R70). -/
def setHead (s : State) (x : Index) : State :=
  match Config.SYNC with
  | .lagged => { s with ring := { s.ring with head := x } }
  | .immediate => syncH { s with ring := { s.ring with head := x } }

/-- A write of `tail`, with a SyncT step fused to it under `SYNC = immediate` (R70). -/
def setTail (s : State) (x : Index) : State :=
  match Config.SYNC with
  | .lagged => { s with ring := { s.ring with tail := x } }
  | .immediate => syncT { s with ring := { s.ring with tail := x } }

/-! ## The time base (R236) and the Activity Clock (R131) -/

/-- A step of the Time agent (R236). -/
def tick (s : State) : State := { s with nowMs := s.nowMs + 1#Config.TW }

/-- A touch: sample `now_ms` and store it, one atomic step (R131). -/
def touch (s : State) : State := { s with lastActivity := s.nowMs }

/-! ## The ports (R40, R93) -/

/-- A command word appears on the W port, with `w_cmd_valid` high (R93). -/
def presentW (s : State) (w : Word) : State :=
  { s with ports := { s.ports with wCmd := w, wCmdValid := true } }

/-- A command word appears on the R port, with `r_cmd_valid` high (R93). -/
def presentR (s : State) (w : Word) : State :=
  { s with ports := { s.ports with rCmd := w, rCmdValid := true } }

/-- A command word appears on a port. -/
def present (p : Port) (s : State) (w : Word) : State :=
  match p with
  | .w => presentW s w
  | .r => presentR s w

/-! ## Collaborator A, the UART (R240 to R243) -/

/-- `uart_rx_avail`: the receive FIFO holds at least one byte (R222, R241). -/
def uartRxAvail (s : State) : Bool := !s.uart.rx.isEmpty

/-- `uart_rx_data`: the byte the next pop returns, if there is one (R40). -/
def uartRxData (s : State) : Option Byte := s.uart.rx.head?

/-- The UART has been initialised (R241). -/
def uartReady (s : State) : Bool := s.uart.frame.isSome

/-- A step of EnvA: a byte arrives. It joins the FIFO when the UART is initialised and the FIFO is not full; otherwise
the step is not enabled and the byte leaves no trace (R241, R276, U12, log 15). -/
def uartDeliver (s : State) (b : Byte) : State :=
  if uartReady s && decide (s.uart.rx.length < Config.UART_FIFO_DEPTH) then
    { s with uart := { s.uart with rx := s.uart.rx ++ [b] } }
  else s

/-- `uart.read_byte()` when the FIFO holds `b` and then `rest`: the oldest byte is removed into `rxd` (R141 X1, R241). -/
def uartPop (s : State) (b : Byte) (rest : List Byte) : State :=
  { s with
    uart := { s.uart with rx := rest }
    scratch := { s.scratch with rxd := b }
    strobes := { s.strobes with uartRxPop := true } }

/-- `uart.init(baud, bits = 8, stop = 1, parity = none)` (R205 T0, R243). -/
def uartInit (s : State) (baud : Baud) : State :=
  { s with
    uart :=
      { s.uart with
        rate := baud
        frame := some { dataBits := Config.DATA_BITS, stopBits := Config.STOP_BITS, parity := .none } }
    strobes := { s.strobes with uartInit := some baud } }

/-- `uart.fifo_enable()` (R205 T1). -/
def uartFifoEnable (s : State) : State :=
  { s with uart := { s.uart with fifoOn := true }, strobes := { s.strobes with uartFifoEn := true } }

/-- `uart.set_baud(r)`: only the rate changes (R171 h, R243). -/
def uartSetBaud (s : State) (r : Baud) : State :=
  { s with uart := { s.uart with rate := r }, strobes := { s.strobes with uartSetBaud := some r } }

/-- `uart_tx_ready`: the UART takes a byte now (R40, R242). -/
def uartTxReady (s : State) : Bool := s.uart.txReady

/-- Collaborator A moves `uart_tx_ready` (R40, log 32). -/
def setTxReady (s : State) (ready : Bool) : State := { s with uart := { s.uart with txReady := ready } }

/-- One accepted byte of `uart.write_blocking` (R242). -/
def uartPush (s : State) (b : Byte) : State :=
  { s with uart := { s.uart with tx := s.uart.tx ++ [b] }, strobes := { s.strobes with uartTxPush := some b } }

/-! ## Collaborator B, the USB serial stack (R244 to R248) -/

/-- `usb_wr_space`, 16 bits, shows `usb_space`; a larger space shows as the largest 16-bit number (R40, log 22). -/
def usbWrSpace (s : State) : BitVec 16 := BitVec.ofNat 16 (min s.usb.space 65535)

/-- `usb_rd_avail`: host bytes wait (R247). -/
def usbRdAvail (s : State) : Bool := !s.usb.rx.isEmpty

/-- How many of `len` offered bytes `usb.write` accepts (R246). -/
def usbAccepted (s : State) (len : Nat) : Nat := min len s.usb.space

/-- `usb.write(bytes)`: the accepted bytes join the transmit stream and use up space (R246). -/
def usbWrite (s : State) (bytes : List Byte) : State :=
  { s with
    usb :=
      { s.usb with
        tx := s.usb.tx ++ (bytes.take (usbAccepted s bytes.length)).map .byte
        space := s.usb.space - usbAccepted s bytes.length }
    strobes := { s.strobes with usbWr := some bytes } }

/-- `usb.flush()`: the position of the flush is marked in the transmit stream (R244, R246). -/
def usbFlush (s : State) : State :=
  { s with
    usb := { s.usb with tx := s.usb.tx ++ [.flush] }
    strobes := { s.strobes with usbFlush := true } }

/-- `usb.read(in_buf, 64)`: the oldest bytes, at most 64, move to `in_buf` and their number to `in_n` (R161 I2, R247). -/
def usbRead (s : State) : State :=
  { s with
    usb := { s.usb with rx := s.usb.rx.drop Config.CHUNK }
    scratch :=
      { s.scratch with
        inBuf :=
          s.usb.rx.take Config.CHUNK ++ s.scratch.inBuf.drop (s.usb.rx.take Config.CHUNK).length
        inN := BitVec.ofNat 7 (s.usb.rx.take Config.CHUNK).length }
    strobes := { s.strobes with usbRd := true } }

/-- What EnvB does in the coming `usb.service()`: the next decided act, or a free one (R244, U14, log 13). -/
def nextHostAct (s : State) : HostAct :=
  s.env.hostActs.head?.getD (Config.hostAct s.env.draws)

/-- The act of EnvB is used up. -/
def dropHostAct (e : Env) : Env :=
  { e with hostActs := e.hostActs.tail, draws := e.draws + (if e.hostActs.isEmpty then 1 else 0) }

/-- EnvB acts: the connection takes either value, the space may be raised up to `USB_TXBUF`, host bytes arrive, the
host's requests join those waiting (R244, R203 c). DESIGN CHOICE (log 31): host bytes not yet read when the host
disconnects stay in `usb_rx` and are read after it connects again; R164 calls what becomes of them Collaborator B's
business. -/
def hostMoves (u : Usb) (a : HostAct) : Usb :=
  { u with
    connected := a.connected
    space := max u.space (min a.space Config.USB_TXBUF)
    rx := u.rx ++ a.bytes
    lcQueue := u.lcQueue ++ a.requests }

/-- The oldest waiting request is presented on the mailbox unless one is held there (R203 c, R248). -/
def presentRequest (u : Usb) : Usb :=
  match u.lcValid, u.lcQueue with
  | false, r :: q => { u with lcValid := true, lcBaud := r, lcQueue := q }
  | _, _ => u

/-- `usb.service()` (R203 S0, R244). -/
def usbServiceCall (s : State) : State :=
  { s with
    usb := presentRequest (hostMoves s.usb (nextHostAct s))
    strobes := { s.strobes with usbService := true }
    env := dropHostAct s.env }

/-- `lc_ack <- pulse`: the request on the mailbox is consumed (R171, R248, log 14). -/
def lcAckPulse (s : State) : State :=
  { s with usb := { s.usb with lcValid := false }, strobes := { s.strobes with lcAck := true } }

/-! ## The receive interrupt (R222 to R227) -/

/-- `irq = irq_en and uart_rx_avail`, level-sensitive, no pending bit (R222). -/
def irq (s : State) : Bool := s.irqEn && uartRxAvail s

/-- Taking the interrupt: `isr_state <- DRAIN`; nothing is saved and nothing else changes (R224). -/
def enterHandler (s : State) : State := { s with isrState := .drain }

/-- Returning from it: `isr_state <- IDLE`; nothing is restored (R226). -/
def leaveHandler (s : State) : State := { s with isrState := .idle }

/-- The handler is entered in IDLE when the request is up, left in DRAIN when the FIFO is empty, and otherwise stays as
it is; in particular it is not entered again while it runs (R224, R226, R227). -/
def handlerTransition (s : State) : State :=
  match s.isrState with
  | .idle => if irq s then enterHandler s else s
  | .drain => if uartRxAvail s then s else leaveHandler s

/-! ## The R sequencer's program counter (R24, R201) -/

/-- The successor of a scheduler step: 0 to 1 to 2 to 3 to 4 to 5 to 1 (R24, R201). -/
def nextSchedStep (k : BitVec 3) : BitVec 3 := if k = 5#3 then 1#3 else k + 1#3

/-- The operation with number `k` finishes: no micro-step is in progress, and `sched_step` advances when it holds `k`
(R24, R201, log 3). -/
def finishStep (k : BitVec 3) (s : State) : State :=
  { s with
    ustep := .idle
    schedStep := if s.schedStep = k then nextSchedStep k else s.schedStep }

end Sys2Proof.Machine
end

