-- ==== Sys2Proof/Machine/Operands.lean ====
section
/-! DEFINITION. The operands that a meaning takes from the state: the byte and index operands of PUT and PEEK come
decoded in the instruction (R94); BAUD's is the mailbox, PEEK's cell and the counts come from the index registers. -/

namespace Sys2Proof.Machine

/-- The number of bytes the R domain sees, `(head_r - tail) mod C` (R114, R116). -/
def visible (s : State) : Index := indexDiff s.ring.headR s.ring.tail

/-- The R domain sees an empty buffer: `head_r == tail` (R113, R115). -/
def emptyR (s : State) : Bool := decide (s.ring.headR = s.ring.tail)

/-- The W domain sees a full buffer: `(head + 1) mod C == tail_w` (R111). -/
def fullW (s : State) : Bool := decide (nextIndex s.ring.head = s.ring.tailW)

/-- The cell PEEK reads, `(tail + i) mod C` (R94, R114). -/
def peekIndex (s : State) (i : BitVec 6) : Index := s.ring.tail + i.zeroExtend Config.AW

/-- BAUD's implicit operand, what `lc_baud` shows: the request while `lc_valid = 1`, and a free value otherwise (R94,
R171 i, U21, log 12). -/
def lcBaudShown (s : State) : Baud := if s.usb.lcValid then s.usb.lcBaud else Config.idleBaud s.env.draws

/-- A free value was used for `lc_baud` unless a request was held. -/
def dropIdleBaud (s : State) : State :=
  { s with env := { s.env with draws := s.env.draws + (if s.usb.lcValid then 0 else 1) } }

/-- The guard of BAUD, `1 <= r <= BAUD_MAX`, unsigned (R171). -/
def baudAccepted (r : Baud) : Bool := decide (1#Config.BW ≤ r) && decide (r ≤ Config.BAUD_MAX)

/-- `eg_k`, `min(eg_a, eg_s, CHUNK)` (R151 E3, R152). -/
def egressTarget (s : State) : Count :=
  BitVec.ofNat 7 (min s.scratch.egA.toNat (min s.scratch.egS Config.CHUNK))

/-- The bytes EGRESS offers, `eg_buf[0 .. eg_got - 1]` (R151 E6, R154). -/
def egressBytes (s : State) : List Byte := s.scratch.egBuf.take s.scratch.egGot.toNat

/-- The byte INGRESS writes at loop index `j`, `in_buf[j]` (R161 I3). -/
def ingressByte (s : State) (j : BitVec 6) : Byte := s.scratch.inBuf.getD j.toNat 0#8

/-- `(a - b) mod 2^TW`, the elapsed-time subtraction of the indicator (R187). -/
def elapsed (a b : Millis) : Millis := a - b

end Sys2Proof.Machine
end

