-- ==== Sys2Proof/Machine/Flags.lean ====
section
/-! DEFINITION. The response word, which holds all the flags the block has: `err`, `ok`, `valid`, `data` (R27, R98).
Nothing is kept as a condition code; a response stands on its port until the next one (log 5). -/

namespace Sys2Proof.Machine

/-- The fields of a response (R98); bit 12 is reserved and reads 0. -/
structure Response where
  err : Bool
  ok : Bool
  valid : Bool
  data : BitVec 12
deriving DecidableEq, Repr

/-- The layout of the response word: `err` bit 15, `ok` bit 14, `valid` bit 13, bit 12 zero, `data` bits 11 to 0 (R98). -/
def responseWord (r : Response) : Word :=
  BitVec.ofBool r.err ++ BitVec.ofBool r.ok ++ BitVec.ofBool r.valid ++ 0#1 ++ r.data

/-- `ok` as given, `valid = 0`, `data = 0`: PUT, ADV, RXBYTE, and with `ok = 1` every operation without a result (R98). -/
def plainResponse (ok : Bool) : Response := { err := false, ok := ok, valid := false, data := 0#12 }

/-- GET and PEEK when a byte is returned: `valid = 1`, `data = zext_12(byte)` (R98). -/
def byteResponse (b : Byte) : Response := { err := false, ok := true, valid := true, data := b.zeroExtend 12 }

/-- AVAIL: `data` is the count, in the 12 bits that the response has for it (R98, R116). -/
def countResponse (n : Index) : Response := { err := false, ok := true, valid := false, data := n.zeroExtend 12 }

/-- An illegal word: `err = 1` and all else 0 (R97). -/
def errResponse : Response := { err := true, ok := false, valid := false, data := 0#12 }

/-- A response appears on the W port. -/
def respondW (s : State) (r : Response) : State :=
  { s with ports := { s.ports with wResp := responseWord r } }

/-- A response appears on the R port. -/
def respondR (s : State) (r : Response) : State :=
  { s with ports := { s.ports with rResp := responseWord r } }

/-- `raise IllegalCommand(port, word)`: no state of the block changes and the response has `err = 1` (R11, R97). -/
def raiseIllegal (p : Port) (s : State) : State :=
  match p with
  | .w => respondW s errResponse
  | .r => respondR s errResponse

/-- A sequencer operation of the R domain with number `k` finishes: its response is returned with its last micro-step
(R98, R201). -/
def finishR (k : BitVec 3) (s : State) : State := respondR (finishStep k s) (plainResponse true)

end Sys2Proof.Machine
end

