-- ==== Sys2Proof/Machine/ActivityClock.lean ====
section
/-! DEFINITION. The Activity Clock operations TOUCHW and TOUCHR (R131). -/

namespace Sys2Proof.Machine

/-- `TOUCHW`: a touch from the W domain (R131). -/
def execTouchw (s : State) : Host.Outcome State Fault Refusal :=
  .next (respondW (touch s) (plainResponse true))

/-- `TOUCHR`: a touch from the R domain (R131). -/
def execTouchr (s : State) : Host.Outcome State Fault Refusal :=
  .next (respondR (touch s) (plainResponse true))

end Sys2Proof.Machine
end

