-- ==== Sys2Proof/Machine/Banner.lean ====
section
/-! DEFINITION. BANNER, the session banner (R191). Its meaning at a state is the micro-step at which BANNER stands
there (log 2). -/

namespace Sys2Proof.Machine

/-- B0: already sent, a no-op (R191). -/
def bannerB0 (s : State) : State := if s.bannerSent then finishR 2#3 s else { s with ustep := .b1 }

/-- B1: not connected, a no-op (R191). -/
def bannerB1 (s : State) : State := if s.usb.connected then { s with ustep := .b2 } else finishR 2#3 s

/-- B2: one write of the banner; the accepted count is ignored (R191). -/
def bannerB2 (s : State) : State := { usbWrite s Config.BANNER with ustep := .b3 }

/-- B3: the flush (R191). -/
def bannerB3 (s : State) : State := { usbFlush s with ustep := .b4 }

/-- B4: `banner_sent <- 1`, and the end of BANNER (R191). -/
def bannerB4 (s : State) : State := finishR 2#3 { s with bannerSent := true }

/-- `BANNER` (R191). -/
def execBanner (s : State) : Host.Outcome State Fault Refusal :=
  match s.ustep with
  | .idle => .next (bannerB0 s)
  | .b1 => .next (bannerB1 s)
  | .b2 => if s.usb.connected then .next (bannerB2 s) else .refused .hostAbsent
  | .b3 => .next (bannerB3 s)
  | .b4 => .next (bannerB4 s)
  | _ => .refused .portBusy

end Sys2Proof.Machine
end

