-- ==== Sys2Proof/Machine/Baud.lean ====
section
/-! DEFINITION. BAUD, the baud negotiation handler (R171). SVC issues the same step (R203). -/

namespace Sys2Proof.Machine

/-- A rate that passes the guard is set on the UART and mirrored in `baud_cfg`; any other is ignored (R171). -/
def applyBaud (r : Baud) (s : State) : State :=
  if baudAccepted r then { uartSetBaud s r with baudCfg := r } else s

/-- BAUD's step: apply the request shown, and consume it either way (R171). -/
def baudOp (s : State) : State := lcAckPulse (dropIdleBaud (applyBaud (lcBaudShown s) s))

/-- `BAUD` (R171). -/
def execBaud (s : State) : Host.Outcome State Fault Refusal :=
  .next (respondR (baudOp s) (plainResponse true))

end Sys2Proof.Machine
end

