-- ==== Sys2Proof/Machine/RingBuffer.lean ====
section
/-! DEFINITION. The ring buffer family: NOP, PUT, GET, PEEK, ADV, AVAIL (R110 to R116). Each `...Op` is the primitive as
one atomic step, with the response it gives; RXBYTE and EGRESS are built from the same ones. -/

namespace Sys2Proof.Machine

/-- PUT's step (R111): a full buffer, as `tail_w` shows it, is left unchanged. -/
def putOp (b : Byte) (s : State) : Response × State :=
  if fullW s then (plainResponse false, s)
  else (plainResponse true, setHead (memWrite s s.ring.head b) (nextIndex s.ring.head))

/-- GET's step (R113). -/
def getOp (s : State) : Response × State :=
  if emptyR s then (plainResponse true, s)
  else (byteResponse (memRead s s.ring.tail), setTail s (nextIndex s.ring.tail))

/-- PEEK's step (R114): `i` is compared unsigned with the visible count, and no state is written. -/
def peekOp (i : BitVec 6) (s : State) : Response :=
  if i.toNat < (visible s).toNat then byteResponse (memRead s (peekIndex s i)) else plainResponse true

/-- ADV's step (R115). -/
def advOp (s : State) : Response × State :=
  if emptyR s then (plainResponse false, s) else (plainResponse true, setTail s (nextIndex s.ring.tail))

/-- AVAIL's step (R116). -/
def availOp (s : State) : Response := countResponse (visible s)

/-- NOP answers on the port that carries it, the one whose `cmd_valid` is high, and does nothing else (R98, R110, log 26). -/
def nopOp (s : State) : State :=
  { s with
    ports :=
      { s.ports with
        wResp := if s.ports.wCmdValid then responseWord (plainResponse true) else s.ports.wResp
        rResp := if s.ports.rCmdValid then responseWord (plainResponse true) else s.ports.rResp } }

/-- `NOP` (R110). -/
def execNop (s : State) : Host.Outcome State Fault Refusal := .next (nopOp s)

/-- `PUT b` (R111, R112). -/
def execPut (b : Byte) (s : State) : Host.Outcome State Fault Refusal :=
  .next (respondW (putOp b s).2 (putOp b s).1)

/-- `GET` (R113). -/
def execGet (s : State) : Host.Outcome State Fault Refusal :=
  .next (respondR (getOp s).2 (getOp s).1)

/-- `PEEK i` (R114). -/
def execPeek (i : BitVec 6) (s : State) : Host.Outcome State Fault Refusal :=
  .next (respondR s (peekOp i s))

/-- `ADV` (R115). -/
def execAdv (s : State) : Host.Outcome State Fault Refusal :=
  .next (respondR (advOp s).2 (advOp s).1)

/-- `AVAIL` (R116). -/
def execAvail (s : State) : Host.Outcome State Fault Refusal :=
  .next (respondR s (availOp s))

end Sys2Proof.Machine
end

