-- ==== Sys2Proof/Machine/Egress.lean ====
section
/-! DEFINITION. EGRESS, the UART to USB task (R151). Its meaning at a state is the micro-step at which EGRESS stands
there (`ustep`); each labelled line of the rule is one step (R12, log 2). -/

namespace Sys2Proof.Machine

/-- E0: a disconnected host makes EGRESS a no-op (R151). -/
def egressE0 (s : State) : State := if s.usb.connected then { s with ustep := .e1 } else finishR 3#3 s

/-- E1: `eg_a <- AVAIL`, shown on the port (R151, R93). -/
def egressE1 (s : State) : State :=
  let p := presentR s (encode .avail)
  { respondR p (availOp p) with ustep := .e2, scratch := { s.scratch with egA := (availOp p).data.zeroExtend Config.AW } }

/-- E2: `eg_s <- usb.write_available()` (R151, R246). -/
def egressE2 (s : State) : State :=
  { s with ustep := .e3, scratch := { s.scratch with egS := s.usb.space } }

/-- E3: `eg_k <- min(eg_a, eg_s, CHUNK)`, `eg_got <- 0` (R151). -/
def egressE3 (s : State) : State :=
  { s with ustep := .e4, scratch := { s.scratch with egK := egressTarget s, egGot := 0#7 } }

/-- E4: with nothing to send, no write and no flush (R151, R153). -/
def egressE4 (s : State) : State :=
  if s.scratch.egK = 0#7 then finishR 3#3 s else { s with ustep := .e5 0#6 }

/-- E5 at loop index `i`: `PEEK i`, shown on the port; an invalid answer leaves the loop, a byte is kept (R151, R154). -/
def egressE5 (i : BitVec 6) (s : State) : State :=
  let p := presentR s (encode (.peek i))
  let r := peekOp i p
  let q := respondR p r
  if r.valid then
    { q with
      ustep := if i.toNat + 1 < s.scratch.egK.toNat then .e5 (i + 1#6) else .e6
      scratch :=
        { s.scratch with
          egBuf := s.scratch.egBuf.set i.toNat (r.data.extractLsb' 0 8)
          egGot := BitVec.ofNat 7 (i.toNat + 1) } }
  else { q with ustep := .e6 }

/-- E6: one write of the bytes obtained; the accepted count is clamped to what was offered (R151, R155). -/
def egressE6 (s : State) : State :=
  { usbWrite s (egressBytes s) with
    ustep := .e7
    scratch :=
      { s.scratch with
        egAcc := BitVec.ofNat 7 (min (usbAccepted s (egressBytes s).length) s.scratch.egGot.toNat) } }

/-- E7: the flush; with no byte accepted there is no ADV and the operation ends (R151, log 4). -/
def egressE7 (s : State) : State :=
  if s.scratch.egAcc = 0#7 then finishR 3#3 (usbFlush s) else { usbFlush s with ustep := .e8 0#7 }

/-- E8 after `j` ADVs: one ADV, shown on the port; the operation ends with the last (R151, R76). -/
def egressE8 (j : Count) (s : State) : State :=
  let r := advOp (presentR s (encode .adv))
  let q := respondR r.2 r.1
  if j.toNat + 1 < s.scratch.egAcc.toNat then { q with ustep := .e8 (j + 1#7) } else finishR 3#3 q

/-- `EGRESS` (R151). -/
def execEgress (s : State) : Host.Outcome State Fault Refusal :=
  match s.ustep with
  | .idle => .next (egressE0 s)
  | .e1 => .next (egressE1 s)
  | .e2 => .next (egressE2 s)
  | .e3 => .next (egressE3 s)
  | .e4 => .next (egressE4 s)
  | .e5 i => .next (egressE5 i s)
  | .e6 => if s.usb.connected then .next (egressE6 s) else .refused .hostAbsent
  | .e7 => .next (egressE7 s)
  | .e8 j => .next (egressE8 j s)
  | _ => .refused .portBusy

end Sys2Proof.Machine
end

