-- ==== Sys2Proof/Machine/Indicator.lean ====
section
/-! DEFINITION. INDIC, the status indicator (R181). Its meaning at a state is the micro-step at which INDIC stands
there (log 2). `led_mode` codes: `BLINK_ACTIVE = 0`, `STEADY_CONNECTED = 1`, `BREATHE_IDLE = 2` (R30). -/

namespace Sys2Proof.Machine

/-- L0: `t_la <- last_activity`, before the time is read (R181, R274). -/
def indicL0 (s : State) : State :=
  { s with ustep := .l1, scratch := { s.scratch with tLa := s.lastActivity } }

/-- L1: `t_now <- now_ms` (R181). -/
def indicL1 (s : State) : State :=
  { s with ustep := .l2, scratch := { s.scratch with tNow := s.nowMs } }

/-- L2: the gate, open when at least `T_GATE` milliseconds have passed (R181, R182). -/
def indicL2 (s : State) : State :=
  if elapsed s.scratch.tNow s.led.last < Config.T_GATE then finishR 5#3 s else { s with ustep := .l3 }

/-- L3: this INDIC is an evaluation (R181). -/
def indicL3 (s : State) : State :=
  { s with ustep := .l4, led := { s.led with last := s.scratch.tNow } }

/-- The indicator after an evaluation: activity first, then connection, then idle (R181 L4, R183 to R186). -/
def evaluate (s : State) : Led :=
  if elapsed s.scratch.tNow s.scratch.tLa < Config.T_ACTIVE then
    { s.led with mode := 0#2, out := !s.led.out }
  else if s.usb.connected then
    { s.led with mode := 1#2, out := true }
  else
    { s.led with
      mode := 2#2
      phase := s.led.phase + 1#Config.PW
      out := (s.led.phase + 1#Config.PW).getLsbD Config.PHASE_BIT }

/-- L4: the evaluation, and the end of INDIC (R181). -/
def indicL4 (s : State) : State := finishR 5#3 { s with led := evaluate s }

/-- `INDIC` (R181). -/
def execIndic (s : State) : Host.Outcome State Fault Refusal :=
  match s.ustep with
  | .idle => .next (indicL0 s)
  | .l1 => .next (indicL1 s)
  | .l2 => .next (indicL2 s)
  | .l3 => .next (indicL3 s)
  | .l4 => .next (indicL4 s)
  | _ => .refused .portBusy

end Sys2Proof.Machine
end

