-- ==== Sys2Proof/Machine/Ingestion.lean ====
section
/-! DEFINITION. RXBYTE, the UART ingestion operation of the W domain (R141). Its meaning at a state is the micro-step at
which RXBYTE stands there (`wstep`): each labelled line of the rule is one step (R12, log 2). -/

namespace Sys2Proof.Machine

/-- X0: with an empty FIFO nothing is read and no state changes; else the byte is to be popped (R141). -/
def rxbyteX0 (s : State) : State :=
  if uartRxAvail s then { s with wstep := .x1 } else respondW s (plainResponse false)

/-- X2: `PUT rxd`, shown on the port as the word it is; its `ok` is discarded (R141, R93). -/
def rxbyteX2 (s : State) : State :=
  let p := presentW s (encode (.put s.scratch.rxd))
  let r := putOp p.scratch.rxd p
  { respondW r.2 r.1 with wstep := .x3 }

/-- X3: TOUCHW, shown on the port, and the end of RXBYTE with `ok = 1` (R141). -/
def rxbyteX3 (s : State) : State :=
  { respondW (touch (presentW s (encode .touchw))) (plainResponse true) with wstep := .idle }

/-- `RXBYTE` (R141). X1 pops the byte even when the ring buffer is full. -/
def execRxbyte (s : State) : Host.Outcome State Fault Refusal :=
  match s.wstep with
  | .idle => .next (rxbyteX0 s)
  | .x1 =>
    match s.uart.rx with
    | [] => .refused .uartEmpty
    | b :: rest => .next { uartPop s b rest with wstep := .x2 }
  | .x2 => .next (rxbyteX2 s)
  | .x3 => .next (rxbyteX3 s)

end Sys2Proof.Machine
end

