-- ==== Sys2Proof/Machine/Ingress.lean ====
section
/-! DEFINITION. INGRESS, the USB to UART task (R161). Its meaning at a state is the micro-step at which INGRESS stands
there; the UART write I3 is one micro-step per byte, taken when the UART is ready for it (log 2, 16). -/

namespace Sys2Proof.Machine

/-- I0: a disconnected host makes INGRESS a no-op (R161). -/
def ingressI0 (s : State) : State := if s.usb.connected then { s with ustep := .i1 } else finishR 4#3 s

/-- I1: with no host data INGRESS is a no-op (R161). -/
def ingressI1 (s : State) : State := if usbRdAvail s then { s with ustep := .i2 } else finishR 4#3 s

/-- I2: one read of at most 64 bytes; an empty read has no byte to write (R161, log 4). -/
def ingressI2 (s : State) : State :=
  { usbRead s with ustep := if (usbRead s).scratch.inN = 0#7 then .i4 else .i3 0#6 }

/-- I3 at byte `j`: a ready UART accepts `in_buf[j]`; while it is not ready the write waits, and the turn passes without
effect (R161, R162, R242, log 16). -/
def ingressI3 (j : BitVec 6) (s : State) : State :=
  if uartTxReady s then
    { uartPush s (ingressByte s j) with
      ustep := if j.toNat + 1 < s.scratch.inN.toNat then .i3 (j + 1#6) else .i4 }
  else s

/-- I4: TOUCHR after a non-empty transfer, shown on the port, and the end of INGRESS (R161). -/
def ingressI4 (s : State) : State :=
  if s.scratch.inN = 0#7 then finishR 4#3 s
  else finishR 4#3 (touch (presentR s (encode .touchr)))

/-- `INGRESS` (R161). -/
def execIngress (s : State) : Host.Outcome State Fault Refusal :=
  match s.ustep with
  | .idle => .next (ingressI0 s)
  | .i1 => .next (ingressI1 s)
  | .i2 => if s.usb.connected then .next (ingressI2 s) else .refused .hostAbsent
  | .i3 j => .next (ingressI3 j s)
  | .i4 => .next (ingressI4 s)
  | _ => .refused .portBusy

end Sys2Proof.Machine
end

