-- ==== Sys2Proof/Machine/Scheduler.lean ====
section
/-! DEFINITION. SVC (R203) and BOOT (R205). The meaning of each at a state is the micro-step at which it stands there
(log 2). -/

namespace Sys2Proof.Machine

/-- S0: `usb.service()`; EnvB acts here (R203). -/
def svcS0 (s : State) : State := { usbServiceCall s with ustep := .s1 }

/-- S1: BAUD, shown on the port, when a request is held; then the end of SVC (R203). -/
def svcS1 (s : State) : State :=
  if s.usb.lcValid then finishR 1#3 (baudOp (presentR s (encode .baud))) else finishR 1#3 s

/-- `SVC` (R203). -/
def execSvc (s : State) : Host.Outcome State Fault Refusal :=
  match s.ustep with
  | .idle => .next (svcS0 s)
  | .s1 => .next (svcS1 s)
  | _ => .refused .portBusy

/-- T0: `uart.init(115200, 8, 1, none)`, `baud_cfg <- 115200` (R205). -/
def bootT0 (s : State) : State :=
  { uartInit s Config.BAUD_DEFAULT with baudCfg := Config.BAUD_DEFAULT, ustep := .t1 }

/-- T1: `uart.fifo_enable()` (R205). -/
def bootT1 (s : State) : State := { uartFifoEnable s with ustep := .t2 }

/-- T2: `irq_en <- 1`, and the end of BOOT (R205). -/
def bootT2 (s : State) : State := finishR 0#3 { s with irqEn := true }

/-- `BOOT` (R205). A BOOT after the first has finished is refused, as the rule asks of a model (R205 d, log 17). -/
def execBoot (s : State) : Host.Outcome State Fault Refusal :=
  match s.ustep with
  | .idle => if s.schedStep = 0#3 then .next (bootT0 s) else .refused .secondBoot
  | .t1 => .next (bootT1 s)
  | .t2 => .next (bootT2 s)
  | _ => .refused .portBusy

end Sys2Proof.Machine
end

