-- ==== Sys2Proof/Machine/Dispatch.lean ====
section
/-! DEFINITION. The dispatch: one arm per operation. The meaning of a sequencer operation is its next micro-step
(log 2). -/

namespace Sys2Proof.Machine

def exec (i : Instr) (s : State) : Host.Outcome State Fault Refusal :=
  match i with
  | .nop => Sys2Proof.Machine.execNop s
  | .put b => Sys2Proof.Machine.execPut b s
  | .touchw => Sys2Proof.Machine.execTouchw s
  | .rxbyte => Sys2Proof.Machine.execRxbyte s
  | .baud => Sys2Proof.Machine.execBaud s
  | .get => Sys2Proof.Machine.execGet s
  | .avail => Sys2Proof.Machine.execAvail s
  | .peek k => Sys2Proof.Machine.execPeek k s
  | .adv => Sys2Proof.Machine.execAdv s
  | .touchr => Sys2Proof.Machine.execTouchr s
  | .svc => Sys2Proof.Machine.execSvc s
  | .banner => Sys2Proof.Machine.execBanner s
  | .egress => Sys2Proof.Machine.execEgress s
  | .ingress => Sys2Proof.Machine.execIngress s
  | .indic => Sys2Proof.Machine.execIndic s
  | .boot => Sys2Proof.Machine.execBoot s

end Sys2Proof.Machine
end

