-- ==== Sys2Proof/Machine/Sequencers.lean ====
section
/-! DEFINITION. What one step of each agent does: the two sequencers and the words they present (R93, R201, R224 to
R226), the harness (R97, R99), the synchronisers, the time base and the UART line, and how the next turn is taken.
A step ends with the state in which the next turn is taken. -/

namespace Sys2Proof.Machine

/-! ## Words -/

/-- The operation whose micro-step the R domain stands at, if one is in progress (R25). -/
def inProgressR : UStep → Option Instr
  | .idle => none
  | .s1 => some .svc
  | .b1 | .b2 | .b3 | .b4 => some .banner
  | .e1 | .e2 | .e3 | .e4 | .e5 _ | .e6 | .e7 | .e8 _ => some .egress
  | .i1 | .i2 | .i3 _ | .i4 => some .ingress
  | .l1 | .l2 | .l3 | .l4 => some .indic
  | .t1 | .t2 => some .boot

/-- The word the R sequencer presents: 0xF000 at `sched_step = 0`, `op = 0x9 + sched_step` at 1 to 5, and no word at the
reserved 6 and 7 (R24, R93, log 20). -/
def wordR (s : State) : Option Word :=
  if s.schedStep = 0#3 then some 0xF000#16
  else if s.schedStep.toNat ≤ 5 then some ((0x9#4 + s.schedStep.zeroExtend 4) ++ 0#12)
  else none

/-- The word the W sequencer presents: RXBYTE while `isr_state = DRAIN` and the FIFO is not empty, NOP otherwise (R93). -/
def wordW (s : State) : Word :=
  match s.isrState, uartRxAvail s with
  | .drain, true => 0x3000#16
  | _, _ => 0x0000#16

/-- A word is presented on a port and executed; an illegal word has the effect of R97 and no other (R95, R97, R229 d). -/
def runWord (p : Port) (w : Word) (s : State) : Host.Outcome State Fault Refusal :=
  match decode p w with
  | .ok i => exec i (present p s w)
  | .error _ => .next (raiseIllegal p (present p s w))

/-! ## The agents -/

/-- A step of the R sequencer: the next micro-step of the operation in progress, or the next word (R201, R202). -/
def turnR (s : State) : Host.Outcome State Fault Refusal :=
  match inProgressR s.ustep with
  | some i => exec i s
  | none =>
    match wordR s with
    | some w => runWord .r w s
    | none => .refused .reservedSchedStep

/-- A step of the W sequencer: the next micro-step of an RXBYTE in progress, or the next word, with the handler's entry
or return in the steps whose word is NOP (R142, R224 to R226, log 27). DESIGN CHOICE (log 34): where a harness's RXBYTE is
still in progress when BOOT's T2 sets `irq_en`, the W domain finishes it first and enters the handler only then; R224 does
not say whether the entry waits. -/
def turnW (s : State) : Host.Outcome State Fault Refusal :=
  match s.wstep with
  | .idle => runWord .w (wordW s) (handlerTransition s)
  | _ => exec .rxbyte s

/-- Why a harness may not present a word on a port now, if it may not: the W port needs `isr_state = IDLE` and
`irq_en = 0` and no RXBYTE in progress, the R port no operation in progress (R99, log 18). -/
def harnessRefusal (p : Port) (s : State) : Option Refusal :=
  match p with
  | .w =>
    if s.irqEn || decide (s.isrState ≠ .idle) then some .handlerEnabled
    else if s.wstep = .idle then none else some .portBusy
  | .r => if s.ustep = .idle then none else some .portBusy

/-- A harness presents a word; its illegality is tested before anything else (R99, R229 d). -/
def turnHarness (p : Port) (w : Word) (s : State) : Host.Outcome State Fault Refusal :=
  match decode p w with
  | .error _ => .next (raiseIllegal p (present p s w))
  | .ok i =>
    match harnessRefusal p s with
    | some r => .refused r
    | none => exec i (present p s w)

/-- A step of an agent (R12). -/
def turnAgent (a : AgentTurn) (s : State) : Host.Outcome State Fault Refusal :=
  match a with
  | .w => turnW s
  | .r => turnR s
  | .syncH => .next (syncH s)
  | .syncT => .next (syncT s)
  | .time => .next (tick s)
  | .rx b => .next (uartDeliver s b)
  | .txReady ready => .next (setTxReady s ready)

/-- The step of a turn. -/
def runTurn (t : Turn) (s : State) : Host.Outcome State Fault Refusal :=
  match t with
  | .agent a => turnAgent a s
  | .harness p w => turnHarness p w s

/-! ## The schedule (log 1) -/

/-- The turn that comes next: the first decided one, or a free choice of agent. -/
def nextTurn (s : State) : Turn :=
  s.env.turns.head?.getD (.agent (Config.agentTurn s.env.draws))

/-- The step begins: the turn is used up, and the strobes and valid lines of the last step fall (log 5). -/
def beginStep (s : State) : State :=
  { s with
    strobes := Strobes.quiet
    ports := { s.ports with wCmd := 0#Config.CW, wCmdValid := false, rCmd := 0#Config.CW, rCmdValid := false }
    env :=
      { s.env with
        turns := s.env.turns.tail
        draws := s.env.draws + (if s.env.turns.isEmpty then 1 else 0) } }

/-- One step of the machine. -/
def stepTurn (s : State) : Host.Outcome State Fault Refusal := runTurn (nextTurn s) (beginStep s)

/-- A turn is decided to come next, before those already decided. -/
def decideTurn (t : Turn) (s : State) : State := { s with env := { s.env with turns := t :: s.env.turns } }

/-! ## Listing directives and the host's word (R102, log 24) -/

/-- The listing directives of R102, which are steps of the environment. -/
inductive Directive where
  | sync
  | synch
  | synct
  | tick (n : Nat)
  | rx (b : Byte)
  | host (a : HostAct)
deriving DecidableEq, Repr

/-- The turns a directive stands for; HOST takes no step, it decides what EnvB does in the next service (R102). -/
def directiveTurns : Directive → List Turn
  | .sync => [.agent .syncH, .agent .syncT]
  | .synch => [.agent .syncH]
  | .synct => [.agent .syncT]
  | .tick n => List.replicate n (.agent .time)
  | .rx b => [.agent (.rx b)]
  | .host _ => []

/-- A directive is written after what is already decided. DESIGN CHOICE (log 35): R102 speaks of one HOST and the next
service; here each HOST's act waits behind the acts already written and serves one service, so a second HOST before a service
serves the service after it, and a HOST written behind a decided SVC serves that SVC when no act waits before it. -/
def applyDirective (d : Directive) (s : State) : State :=
  match d with
  | .host a => { s with env := { s.env with hostActs := s.env.hostActs ++ [a] } }
  | .sync => { s with env := { s.env with turns := s.env.turns ++ directiveTurns d } }
  | .synch => { s with env := { s.env with turns := s.env.turns ++ directiveTurns d } }
  | .synct => { s with env := { s.env with turns := s.env.turns ++ directiveTurns d } }
  | .tick _ => { s with env := { s.env with turns := s.env.turns ++ directiveTurns d } }
  | .rx _ => { s with env := { s.env with turns := s.env.turns ++ directiveTurns d } }

/-- The port a word belongs to: W for a word of class W, R for any other. -/
def homePort (w : Word) : Port :=
  match decodeWord w with
  | .ok i => if WellFormed .r i then .r else .w
  | .error _ => .r

/-- The state in which a harness presents the word at the very next step: its turn is first, and the port is free as R99
requires (log 24). -/
def placeWord (s : State) (w : Word) : State :=
  match homePort w with
  | .w => decideTurn (.harness .w w) { s with isrState := .idle, irqEn := false, wstep := .idle }
  | .r => decideTurn (.harness .r w) { s with ustep := .idle }

/-! ## A sequencer operation run through (R12, R207) -/

/-- No sequencer operation is in progress on a port. -/
def portFree (p : Port) (s : State) : Bool :=
  match p with
  | .w => decide (s.wstep = .idle)
  | .r => decide (s.ustep = .idle)

/-- No micro-step of operation `i` is left: the domain that runs it stands between two operations. -/
def opDone (i : Instr) (s : State) : Bool :=
  match i.portClass with
  | .w => portFree .w s
  | .r => portFree .r s
  | .x => true

/-- Operation `i` run to its last micro-step with no step of another agent between its micro-steps, for at most `n`
micro-steps. -/
def runAlone (i : Instr) : Nat → State → Host.Outcome State Fault Refusal
  | 0, s => .next s
  | n + 1, s =>
    match exec i s with
    | .next t => if opDone i t then .next t else runAlone i n t
    | .fault f => .fault f
    | .refused r => .refused r

/-- Operations run one after the other, each for one micro-step: for lists of primitive operations (R14). -/
def execAll : List Instr → State → Host.Outcome State Fault Refusal
  | [], s => .next s
  | i :: is, s =>
    match exec i s with
    | .next t => execAll is t
    | .fault f => .fault f
    | .refused r => .refused r

/-- The responses that a list of primitive operations gets on the R port, in order. -/
def responsesR : List Instr → State → List Word
  | [], _ => []
  | i :: is, s =>
    match exec i s with
    | .next t => t.ports.rResp :: responsesR is t
    | .fault _ => []
    | .refused _ => []

/-! ## Pseudo-operations presented by a harness (R99, R102, log 33) -/

/-- The domain behind a port. -/
def portAgent : Port → AgentTurn
  | .w => .w
  | .r => .r

/-- The domain behind a port goes on until no operation is in progress there, for at most `n` micro-steps. -/
def runToFree (p : Port) : Nat → State → Host.Outcome State Fault Refusal
  | 0, s => .next s
  | n + 1, s =>
    if portFree p s then .next s
    else
      match stepTurn (decideTurn (.agent (portAgent p)) s) with
      | .next t => runToFree p n t
      | .fault f => .fault f
      | .refused r => .refused r

/-- The micro-steps of the longest operation, an EGRESS of `CHUNK` bytes: E0 to E4, the PEEKs, E6, E7, the ADVs (R151,
R157). INGRESS takes fewer while the UART is ready. -/
def longestOp : Nat := 2 * Config.CHUNK + 7

/-- A harness presents a word, and the operation runs to its end, which no operation passes while the UART is ready (R157,
R207). DESIGN CHOICE (log 33): where `uart_tx_ready` stays low at INGRESS's I3, which R102 leaves open, no other agent
raises it here; the harness gives up after `longestOp` turns of the R domain, and the state is the one that still waits
at I3. The next word of ITER, INDIC, is then refused (portBusy). -/
def harnessWord (p : Port) (w : Word) (s : State) : Host.Outcome State Fault Refusal :=
  match stepTurn (decideTurn (.harness p w) s) with
  | .next t => runToFree p longestOp t
  | .fault f => .fault f
  | .refused r => .refused r

/-- Words presented one after the other, each when the one before has ended. -/
def harnessWords (p : Port) : List Word → State → Host.Outcome State Fault Refusal
  | [], s => .next s
  | w :: ws, s =>
    match harnessWord p w s with
    | .next t => harnessWords p ws t
    | .fault f => .fault f
    | .refused r => .refused r

/-- RXBYTE repeated while `uart_rx_avail = 1`, at most `n` times. -/
def harnessIsr : Nat → State → Host.Outcome State Fault Refusal
  | 0, s => .next s
  | n + 1, s =>
    if uartRxAvail s then
      match harnessWord .w (encode .rxbyte) s with
      | .next t => harnessIsr n t
      | .fault f => .fault f
      | .refused r => .refused r
    else .next s

/-- A pseudo-operation run by a harness with no step of another agent between its own (R102). ISR's loop ends after as
many RXBYTE as the FIFO holds bytes, since no byte arrives meanwhile. ITER with `uart_tx_ready` low and host bytes to
forward is refused (`harnessWord`, log 33). -/
def runPseudo (q : Pseudo) (s : State) : Host.Outcome State Fault Refusal :=
  match q with
  | .commit n => harnessWords .r (((Pseudo.commit n).expand 0).map encode) s
  | .iter => harnessWords .r ((Pseudo.iter.expand 0).map encode) s
  | .isr => harnessIsr s.uart.rx.length s
  | .puts bs => harnessWords .w (((Pseudo.puts bs).expand 0).map encode) s

end Sys2Proof.Machine
end

