-- ==== Sys2Proof/Machine/Step.lean ====
section
/-! DEFINITION. One step of the machine, and the host's way to have a word run at the very next step. Both only call
what Sequencers.lean defines. -/

namespace Sys2Proof.Machine

/-- One step: the next turn is taken and run (R12). -/
def step (s : State) : Host.Outcome State Fault Refusal := stepTurn s

/-- `s` with the word of the `nbits` low bits of `w` placed so that the next step presents and runs it (log 24). -/
def State.withFetchWord (s : State) (nbits w : Nat) : State :=
  placeWord s (BitVec.ofNat Config.CW (w % 2 ^ nbits))

end Sys2Proof.Machine
end

