-- ==== Sys2Proof/Machine/Crossing.lean ====
section
/-! DEFINITION. The Gray-code crossing of an index between the clock domains (R75). The machine's SyncH and SyncT copy
the index whole (R70); these two functions say why that is what the crossing delivers (log 23). -/

namespace Sys2Proof.Machine

/-- `g = x xor (x >> 1)` (R75). -/
def gray (x : Index) : Index := x ^^^ (x >>> 1)

/-- The inverse of `gray`: bit `i` is the exclusive or of the bits of `g` from `i` up (R75: `b[11] = g[11]`,
`b[i] = b[i+1] xor g[i]`): the exclusive or of `g` shifted right by 0 to `AW - 1`. -/
def ungray (g : Index) : Index := (List.range Config.AW).foldl (fun b k => b ^^^ (g >>> k)) 0#Config.AW

/-- Two codes differ in exactly one bit. -/
def oneBitApart (x y : Index) : Bool :=
  decide (x ^^^ y ≠ 0#Config.AW) && decide ((x ^^^ y) &&& ((x ^^^ y) - 1#Config.AW) = 0#Config.AW)

end Sys2Proof.Machine
end

