-- ==== Sys2Proof/Safety.lean ====
section
/-! DEFINITION. What a good state of the bridge core is: the ring invariant (R22, R72), the storage's form, the registers'
legal ranges, and what each micro-step position may rely on. `Inv` puts them together. -/

namespace Sys2Proof.Machine

/-- `d1 = (tail - tail_w) mod C`: released bytes the producer has not seen released (R72). -/
def lagTail (s : State) : Nat := (s.ring.tail - s.ring.tailW).toNat

/-- `d2 = (head_r - tail) mod C`: resident bytes the consumer sees (R72). -/
def seen (s : State) : Nat := (s.ring.headR - s.ring.tail).toNat

/-- `d3 = (head - head_r) mod C`: resident bytes the consumer does not see yet (R72). -/
def unseen (s : State) : Nat := (s.ring.head - s.ring.headR).toNat

/-- The occupancy `(head - tail) mod C` (R16, R22). -/
def occupancy (s : State) : Nat := (s.ring.head - s.ring.tail).toNat

/-- The ring invariant `d1 + d2 + d3 <= C - 1` (R72). -/
abbrev RingInv (s : State) : Prop := lagTail s + seen s + unseen s ≤ Config.C - 1

/-- The bytes the buffer holds, oldest first: the cells from `tail` forward to `head - 1` (R73, R77). -/
def contents (s : State) : List Byte :=
  (List.range (occupancy s)).map fun k => memRead s (s.ring.tail + BitVec.ofNat Config.AW k)

/-- Every cell that holds a resident byte has been written since reset (R73 c). -/
abbrev Written (s : State) : Prop :=
  ∀ k < occupancy s, (Memory.lookup s.ring.buf (s.ring.tail + BitVec.ofNat Config.AW k).toNat).isSome = true

/-- The registers hold legal values: `sched_step` 0 to 5 (R24), `led_mode` 0 to 2 (R30), the counts 0 to 64 and the
buffers 64 bytes (R37), `usb_space` at most `USB_TXBUF` (R244), `urx` at most `UART_FIFO_DEPTH` (R240). -/
abbrev Ranges (s : State) : Prop :=
  s.schedStep.toNat ≤ 5 ∧ s.led.mode.toNat ≤ 2 ∧
  s.scratch.egK.toNat ≤ Config.CHUNK ∧ s.scratch.egGot.toNat ≤ Config.CHUNK ∧
  s.scratch.egAcc.toNat ≤ Config.CHUNK ∧ s.scratch.inN.toNat ≤ Config.CHUNK ∧
  s.scratch.egBuf.length = Config.CHUNK ∧ s.scratch.inBuf.length = Config.CHUNK ∧
  s.usb.space ≤ Config.USB_TXBUF ∧ s.uart.rx.length ≤ Config.UART_FIFO_DEPTH

/-- The frame the block asks the UART for: 8 data bits, 1 stop bit, no parity (R205, R243). -/
def bootFrame : Frame := { dataBits := Config.DATA_BITS, stopBits := Config.STOP_BITS, parity := .none }

/-- After BOOT, and only then, the interrupt is enabled, the UART is configured and the baud rate is legal; the handler
runs only then; `baud_cfg` mirrors the UART's rate (R31, R32, R205, R240). -/
abbrev Booted (s : State) : Prop :=
  (s.irqEn = true ↔ s.schedStep ≠ 0#3) ∧
  (s.isrState = .drain → s.irqEn = true) ∧
  (s.irqEn = true → s.uart.frame = some bootFrame ∧ s.uart.fifoOn = true) ∧
  (s.irqEn = true → 1 ≤ s.baudCfg.toNat ∧ s.baudCfg.toNat ≤ Config.BAUD_MAX.toNat) ∧
  s.baudCfg = s.uart.rate

/-- The first `n` bytes of `eg_buf` are the `n` oldest bytes of the ring, in order (R154, R156). -/
abbrev Copied (s : State) (n : Nat) : Prop :=
  ∀ k < n, s.scratch.egBuf.getD k 0#8 = memRead s (s.ring.tail + BitVec.ofNat Config.AW k)

/-- What holds at each micro-step position of the R domain, from the tests and samples made before it (R151, R152, R154,
R155, R161, R191, R205). -/
abbrev AtStep (s : State) : UStep → Prop
  | .idle => True
  | .s1 => True
  | .b1 => s.bannerSent = false
  | .b2 => s.bannerSent = false ∧ s.usb.connected = true
  | .b3 => s.bannerSent = false
  | .b4 => s.bannerSent = false
  | .e1 => s.usb.connected = true
  | .e2 => s.usb.connected = true ∧ s.scratch.egA.toNat ≤ seen s
  | .e3 => s.usb.connected = true ∧ s.scratch.egA.toNat ≤ seen s ∧ s.scratch.egS = s.usb.space
  | .e4 =>
    s.usb.connected = true ∧ s.scratch.egK.toNat ≤ seen s ∧ s.scratch.egK.toNat ≤ s.usb.space ∧
    s.scratch.egGot = 0#7
  | .e5 i =>
    s.usb.connected = true ∧ s.scratch.egK.toNat ≤ seen s ∧ s.scratch.egK.toNat ≤ s.usb.space ∧
    i.toNat < s.scratch.egK.toNat ∧ s.scratch.egGot.toNat = i.toNat ∧ Copied s i.toNat
  | .e6 =>
    s.usb.connected = true ∧ s.scratch.egGot = s.scratch.egK ∧ s.scratch.egK ≠ 0#7 ∧
    s.scratch.egGot.toNat ≤ seen s ∧ s.scratch.egGot.toNat ≤ s.usb.space ∧ Copied s s.scratch.egGot.toNat
  | .e7 => s.scratch.egAcc = s.scratch.egGot ∧ s.scratch.egAcc ≠ 0#7 ∧ s.scratch.egAcc.toNat ≤ seen s
  | .e8 j => j.toNat < s.scratch.egAcc.toNat ∧ s.scratch.egAcc.toNat - j.toNat ≤ seen s
  | .i1 => s.usb.connected = true
  | .i2 => s.usb.connected = true ∧ s.usb.rx ≠ []
  | .i3 j => j.toNat < s.scratch.inN.toNat
  | .i4 => s.scratch.inN ≠ 0#7
  | .l1 => True
  | .l2 => True
  | .l3 => True
  | .l4 => True
  | .t1 => s.schedStep = 0#3 ∧ s.uart.frame = some bootFrame ∧ s.baudCfg = Config.BAUD_DEFAULT
  | .t2 => s.schedStep = 0#3 ∧ s.uart.frame = some bootFrame ∧ s.baudCfg = Config.BAUD_DEFAULT ∧ s.uart.fifoOn = true

/-- What holds at each micro-step position of RXBYTE: the FIFO still holds the byte X0 saw (R141). -/
abbrev AtWStep (s : State) : WStep → Prop
  | .idle => True
  | .x1 => s.uart.rx ≠ []
  | .x2 => True
  | .x3 => True

/-- A good state. -/
structure Inv (s : State) : Prop where
  wf : Memory.wf s.ring.buf
  ring : RingInv s
  written : Written s
  ranges : Ranges s
  booted : Booted s
  atStep : AtStep s s.ustep
  atWStep : AtWStep s s.wstep

/-- While the banner is not sent, nothing has been written to the USB side: the transmit space is whole until BANNER
writes, and from EGRESS's turn on the host was found disconnected (R279, with the order of R200). -/
abbrev BannerPending (s : State) : Prop :=
  s.bannerSent = false →
    (s.ustep ≠ .b3 → s.ustep ≠ .b4 → s.usb.space = Config.USB_TXBUF) ∧
    (3 ≤ s.schedStep.toNat → s.usb.connected = false) ∧
    (inProgressR s.ustep = some .egress → s.schedStep = 3#3)

/-! ## Runs and fairness (R70, R236, R242, R288) -/

/-- `r` is a run of the machine under the schedule `sched`: turn `n` of the schedule takes state `n` to state `n + 1`. -/
abbrev Run (sched : Nat → Turn) (r : Nat → State) : Prop :=
  ∀ n, step (decideTurn (sched n) (r n)) = .next (r (n + 1))

/-- The agent steps infinitely often. -/
abbrev FairFor (a : AgentTurn) (sched : Nat → Turn) : Prop := ∀ n, ∃ m, n ≤ m ∧ sched m = .agent a

/-- While the R domain stands at the UART write I3, a turn of the R domain with the UART ready comes at some time (R242:
each byte's micro-step is always eventually enabled). -/
abbrev WriteFair (sched : Nat → Turn) (r : Nat → State) : Prop :=
  ∀ n j, (r n).ustep = .i3 j → ∃ m, n ≤ m ∧ sched m = .agent .r ∧ (r m).uart.txReady = true

/-- The fair runs of R288: the W domain, the R domain, SyncH, SyncT and Time each step infinitely often, and the UART
write ends. The machine itself admits unfair runs too (log 25). -/
structure Fair (sched : Nat → Turn) (r : Nat → State) : Prop where
  run : Run sched r
  interrupt : FairFor .w sched
  mainLoop : FairFor .r sched
  syncH : FairFor .syncH sched
  syncT : FairFor .syncT sched
  time : FairFor .time sched
  write : WriteFair sched r

/-! ## Words for the statements -/

/-- `s` without the port signals and the model's own fields: the block's registers and the collaborators' state. -/
def architectural (s : State) : State :=
  { s with
    strobes := Strobes.quiet
    ports := State.reset.ports
    env := { turns := [], hostActs := [], draws := 0 } }

/-- `s` with a response on the W port. -/
def answeredW (s : State) (w : Word) : State := { s with ports := { s.ports with wResp := w } }

/-- `s` with a response on the R port. -/
def answeredR (s : State) (w : Word) : State := { s with ports := { s.ports with rResp := w } }

/-- `s` with a response on a port. -/
def answered (p : Port) (s : State) (w : Word) : State :=
  match p with
  | .w => answeredW s w
  | .r => answeredR s w

/-- `t` is `s` after operation number `k` has finished with `ok = 1`: no micro-step in progress, response 0x4000, and
`sched_step` at the successor of `k` if it held `k` (R98, R201). What `sched_step` does when it holds another number is
left unsaid here (log 3). -/
abbrev Ended (k : BitVec 3) (s t : State) : Prop :=
  t = { s with ustep := .idle, schedStep := t.schedStep, ports := { s.ports with rResp := 0x4000#16 } } ∧
  (s.schedStep = k → t.schedStep = if k = 5#3 then 1#3 else k + 1#3)

/-- The next turn belongs to the W domain: its sequencer, or a harness on its port. -/
abbrev wMoves (s : State) : Prop := nextTurn s = .agent .w ∨ ∃ w, nextTurn s = .harness .w w

/-- The next turn belongs to the R domain. -/
abbrev rMoves (s : State) : Prop := nextTurn s = .agent .r ∨ ∃ w, nextTurn s = .harness .r w

/-- The next step is micro-step S0 of SVC, `usb.service()` (R203). -/
abbrev serviceMoves (s : State) : Prop :=
  s.ustep = .idle ∧ ((nextTurn s = .agent .r ∧ s.schedStep = 1#3) ∨ nextTurn s = .harness .r 0xA000#16)

end Sys2Proof.Machine
end

