-- ==== Sys2Proof/Certificates/Slice0/Obligations.lean ====
section
/-! DEFINITION. The statements for the provers. Each says in its docstring which rule it formalises; `kind`, tier and
citations stand in OBLIGATIONS.json. -/

open Sys2Proof Sys2Proof.Machine

/-! ## Encoding -/

/-- A word on a port decodes to an operation exactly when it is that operation's encoding and the class admits the port:
no bit of an encoding is dropped and no word has two readings (R90, R92, R94, R95). -/
def Obligations.DecodingInvertsEncoding : Prop :=
  ∀ (p : Port) (w : Word) (i : Instr), decode p w = .ok i ↔ (w = encode i ∧ WellFormed p i = true)

/-- R92: a word spells an operation iff `(w and mask) == match` and the port agrees with the class, for the sixteen rows
of the table as the rule lists them. -/
def Obligations.WordsSpellTheirTableRows : Prop :=
  ∀ row ∈ ([("NOP", 0x0000#16, 0xFFFF#16, .x), ("PUT", 0x1000#16, 0xFF00#16, .w),
      ("TOUCHW", 0x2000#16, 0xFFFF#16, .w), ("RXBYTE", 0x3000#16, 0xFFFF#16, .w),
      ("BAUD", 0x4000#16, 0xFFFF#16, .r), ("GET", 0x5000#16, 0xFFFF#16, .r),
      ("AVAIL", 0x6000#16, 0xFFFF#16, .r), ("PEEK", 0x7000#16, 0xFFC0#16, .r),
      ("ADV", 0x8000#16, 0xFFFF#16, .r), ("TOUCHR", 0x9000#16, 0xFFFF#16, .r),
      ("SVC", 0xA000#16, 0xFFFF#16, .r), ("BANNER", 0xB000#16, 0xFFFF#16, .r),
      ("EGRESS", 0xC000#16, 0xFFFF#16, .r), ("INGRESS", 0xD000#16, 0xFFFF#16, .r),
      ("INDIC", 0xE000#16, 0xFFFF#16, .r), ("BOOT", 0xF000#16, 0xFFFF#16, .r)] :
      List (String × Word × Word × PortClass)),
    ∀ (p : Port) (w : Word),
      (∃ i, i.mnemonic = row.1 ∧ decode p w = .ok i) ↔
        (w &&& row.2.2.1 = row.2.1 ∧ row.2.2.2.admits p = true)

/-- R95: a word is illegal in exactly the five cases (a) to (e); `NOP` is spelled 0x0000 only. -/
def Obligations.IllegalWordsAreExactlyThese : Prop :=
  ∀ (p : Port) (w : Word),
    ((∃ e, decode p w = .error e) ↔
      ((w.extractLsb' 12 4 ≠ 0x1#4 ∧ w.extractLsb' 12 4 ≠ 0x7#4 ∧ w.extractLsb' 0 12 ≠ 0#12) ∨
       (w.extractLsb' 12 4 = 0x1#4 ∧ w.extractLsb' 8 4 ≠ 0#4) ∨
       (w.extractLsb' 12 4 = 0x7#4 ∧ w.extractLsb' 6 6 ≠ 0#6) ∨
       (p = .r ∧ w.extractLsb' 12 4 ∈ [0x1#4, 0x2#4, 0x3#4]) ∨
       (p = .w ∧ 4 ≤ (w.extractLsb' 12 4).toNat))) ∧
    (decode p w = .ok .nop → w = 0x0000#16)

/-- Words written out from the encodings of R90, R92 and R94 decode to the operations they stand for. -/
def Obligations.WordsWrittenOutDecode : Prop :=
  decode .w 0b0001000001000001#16 = .ok (.put 0x41#8) ∧
  decode .r 0b0111000000111111#16 = .ok (.peek 63#6) ∧
  decode .w 0b0011000000000000#16 = .ok .rxbyte ∧
  decode .r 0b1100000000000000#16 = .ok .egress ∧
  decode .r 0b0111000001000000#16 = .error .reservedArg ∧
  decode .r 0b0001000001000001#16 = .error .wrongPort

/-- R97: an illegal word changes no state and calls no collaborator; its response is 0x8000 on its port. That the other
port's response stands and that the strobes of the step before are down is the model's choice (log 5), which R97 does not
state. -/
def Obligations.IllegalWordOnlyAnswersErr : Prop :=
  ∀ (s : State) (p : Port) (w : Word) (e : Illegal),
    nextTurn s = .harness p w → decode p w = .error e →
    ∃ t, step s = .next t ∧ architectural t = architectural s ∧ t.strobes = Strobes.quiet ∧
      (p = .w → t.ports.wResp = 0x8000#16 ∧ t.ports.rResp = s.ports.rResp) ∧
      (p = .r → t.ports.rResp = 0x8000#16 ∧ t.ports.wResp = s.ports.wResp)

/-- R96: every word a sequencer presents is legal on its port, the words of the inner primitives among them. -/
def Obligations.SequencersPresentOnlyLegalWords : Prop :=
  ∀ s : State,
    (∃ i, decode .w (wordW s) = .ok i) ∧
    (∀ w, wordR s = some w → ∃ i, decode .r w = .ok i) ∧
    (∀ b, decode .w (encode (.put b)) = .ok (.put b)) ∧
    decode .w (encode .touchw) = .ok .touchw ∧
    decode .r (encode .avail) = .ok .avail ∧
    (∀ i, decode .r (encode (.peek i)) = .ok (.peek i)) ∧
    decode .r (encode .adv) = .ok .adv ∧
    decode .r (encode .touchr) = .ok .touchr ∧
    decode .r (encode .baud) = .ok .baud

/-- R96, R98: where each field of a response stands in the word; and whatever moves, `err` appears in a response only by
a harness presenting an illegal word on that port, and the reserved bit 12 of a response stays 0. That a response stands on
its port until the next one is the model's choice (log 5). -/
def Obligations.ErrComesOnlyFromIllegalWords : Prop :=
  (∀ r : Response,
    (responseWord r).getLsbD 15 = r.err ∧ (responseWord r).getLsbD 14 = r.ok ∧
    (responseWord r).getLsbD 13 = r.valid ∧ (responseWord r).getLsbD 12 = false ∧
    (responseWord r).extractLsb' 0 12 = r.data) ∧
  (∀ s t : State, step s = .next t →
    (t.ports.wResp.getLsbD 15 = true → s.ports.wResp.getLsbD 15 = true ∨
      ∃ w e, nextTurn s = .harness .w w ∧ decode .w w = .error e) ∧
    (t.ports.rResp.getLsbD 15 = true → s.ports.rResp.getLsbD 15 = true ∨
      ∃ w e, nextTurn s = .harness .r w ∧ decode .r w = .error e) ∧
    (s.ports.wResp.getLsbD 12 = false → t.ports.wResp.getLsbD 12 = false) ∧
    (s.ports.rResp.getLsbD 12 = false → t.ports.rResp.getLsbD 12 = false))

/-- R102: the expansions of the pseudo-operations, as words. What running them does is said of the model's harness, which
runs the words one after the other with no other agent between: R102 does not say who else may move, so these clauses rest
on log 33 (the model's choice). COMMIT releases up to `n` visible bytes. ISR empties the FIFO: its bytes go to PUT in order,
each as PUT treats it (R112, R141, R143), and the clock is stamped. PUTS is its PUTs one after the other. ITER, in a good
state with the UART ready, runs its five operations to their ends, and from `sched_step = 1` is one iteration. -/
def Obligations.PseudoOperationsExpand : Prop :=
  ((∀ n k, ((Pseudo.commit n).expand k).map encode = List.replicate n 0x8000#16) ∧
    (∀ k, (Pseudo.iter.expand k).map encode = [0xA000#16, 0xB000#16, 0xC000#16, 0xD000#16, 0xE000#16]) ∧
    (∀ k, (Pseudo.isr.expand k).map encode = List.replicate k 0x3000#16) ∧
    (∀ (bs : List Byte) (k : Nat),
      ((Pseudo.puts bs).expand k).map encode = bs.map fun b => 0x1000#16 ||| b.zeroExtend 16)) ∧
  (∀ (s : State) (n : Nat), s.ustep = .idle → ∃ t, runPseudo (.commit n) s = .next t ∧
    architectural t = { architectural s with
      ring := { s.ring with
        tail := s.ring.tail + BitVec.ofNat 12 (min n (s.ring.headR - s.ring.tail).toNat) } }) ∧
  (∀ s : State, s.wstep = .idle → s.isrState = .idle → s.irqEn = false →
    (∃ t u, runPseudo .isr s = .next t ∧ execAll (s.uart.rx.map .put) s = .next u ∧
      architectural t = { architectural u with
        lastActivity := t.lastActivity
        uart := { s.uart with rx := [] }
        scratch := { s.scratch with rxd := s.uart.rx.getLastD s.scratch.rxd } } ∧
      t.wstep = .idle ∧ t.ring.tail = s.ring.tail ∧
      (s.uart.rx = [] → t = s) ∧ (s.uart.rx ≠ [] → t.lastActivity = s.nowMs)) ∧
    (∀ bs : List Byte, ∃ t u, runPseudo (.puts bs) s = .next t ∧ execAll (bs.map .put) s = .next u ∧
      architectural t = architectural u)) ∧
  (∀ s : State, Inv s → s.ustep = .idle → s.uart.txReady = true →
    ∃ t, runPseudo .iter s = .next t ∧ t.ustep = .idle ∧ (s.schedStep = 1#3 → t.schedStep = 1#3))

/-! ## The step -/

/-- A step runs the decoded operation: a harness word on a free port, the R sequencer's word or the micro-step in
progress, the W sequencer's micro-step in progress. Around `exec` the step does two things: it begins (`beginStep`: the
turn is used up, the strobes and valid lines fall, the model's choice of log 1 and 5) and shows the word on its port. -/
def Obligations.StepRunsTheDecodedOperation : Prop :=
  (∀ (s : State) (p : Port) (w : Word) (i : Instr),
    nextTurn s = .harness p w → decode p w = .ok i →
    (p = .w → s.isrState = .idle ∧ s.irqEn = false ∧ s.wstep = .idle) → (p = .r → s.ustep = .idle) →
    step s = exec i (present p (beginStep s) w)) ∧
  (∀ s : State, nextTurn s = .agent .r → s.ustep = .idle →
    ∀ row ∈ [(0#3, 0xF000#16, Instr.boot), (1#3, 0xA000#16, .svc), (2#3, 0xB000#16, .banner),
        (3#3, 0xC000#16, .egress), (4#3, 0xD000#16, .ingress), (5#3, 0xE000#16, .indic)],
      s.schedStep = row.1 →
      decode .r row.2.1 = .ok row.2.2 ∧ step s = exec row.2.2 (presentR (beginStep s) row.2.1)) ∧
  (∀ (s : State) (i : Instr), nextTurn s = .agent .r → inProgressR s.ustep = some i →
    step s = exec i (beginStep s)) ∧
  (∀ s : State, nextTurn s = .agent .w → s.wstep ≠ .idle → step s = exec .rxbyte (beginStep s)) ∧
  (∀ s : State, architectural (beginStep s) = architectural s ∧ (beginStep s).strobes = Strobes.quiet ∧
    (beginStep s).ports.wCmdValid = false ∧ (beginStep s).ports.rCmdValid = false ∧
    (beginStep s).ports.wResp = s.ports.wResp ∧ (beginStep s).ports.rResp = s.ports.rResp ∧
    (beginStep s).env.turns = s.env.turns.tail ∧ (beginStep s).env.hostActs = s.env.hostActs)

/-- R224: in IDLE with `irq = 1` the W sequencer takes the step `isr_state <- DRAIN`, and nothing else changes. With
`irq = 0` (R222: the enable off or the FIFO empty) it changes nothing at all. Said of the steps with no RXBYTE in progress; a
harness's RXBYTE that BOOT overtakes is log 34. -/
def Obligations.HandlerIsEnteredOnRequest : Prop :=
  ∀ s : State, nextTurn s = .agent .w → s.wstep = .idle → s.isrState = .idle →
    (s.irqEn = true → s.uart.rx ≠ [] →
      ∃ t, step s = .next t ∧ architectural t = { architectural s with isrState := .drain }) ∧
    (s.irqEn = false ∨ s.uart.rx = [] → ∃ t, step s = .next t ∧ architectural t = architectural s)

/-- R225: in DRAIN with a byte available the W sequencer issues RXBYTE, word 0x3000. -/
def Obligations.HandlerBodyIssuesRxbyte : Prop :=
  ∀ s : State, nextTurn s = .agent .w → s.wstep = .idle → s.isrState = .drain → s.uart.rx ≠ [] →
    step s = exec .rxbyte (presentW (beginStep s) 0x3000#16)

/-- R226: in DRAIN with the FIFO empty, between two RXBYTE, the W sequencer takes the step `isr_state <- IDLE`, and
nothing is restored. -/
def Obligations.HandlerReturnsWhenDrained : Prop :=
  ∀ s : State, nextTurn s = .agent .w → s.wstep = .idle → s.isrState = .drain → s.uart.rx = [] →
    ∃ t, step s = .next t ∧ architectural t = { architectural s with isrState := .idle }

/-- R142, R227: whatever moves, the handler is left only with the FIFO empty, and entered only from IDLE with the request
up; only the W domain moves `isr_state`. That it is not entered inside a harness's RXBYTE is the model's choice (log 34). -/
def Obligations.HandlerLeavesOnlyAnEmptyFifo : Prop :=
  ∀ s t : State, step s = .next t → t.isrState ≠ s.isrState →
    nextTurn s = .agent .w ∧ s.wstep = .idle ∧
    ((s.isrState = .drain ∧ s.uart.rx = []) ∨ (s.isrState = .idle ∧ s.irqEn = true ∧ s.uart.rx ≠ []))

/-- R70: a step of SyncH copies `head` to `head_r`, a step of SyncT copies `tail` to `tail_w`, in every state, and
neither changes anything else. -/
def Obligations.SynchronisersCopyTheIndices : Prop :=
  (∀ s : State, nextTurn s = .agent .syncH → ∃ t, step s = .next t ∧
    architectural t = { architectural s with ring := { s.ring with headR := s.ring.head } }) ∧
  (∀ s : State, nextTurn s = .agent .syncT → ∃ t, step s = .next t ∧
    architectural t = { architectural s with ring := { s.ring with tailW := s.ring.tail } })

/-- R236: a step of Time adds one to `now_ms` modulo `2^32`, in every state, and changes nothing else. -/
def Obligations.TimeAdvancesByOne : Prop :=
  ∀ s : State, nextTurn s = .agent .time → ∃ t, step s = .next t ∧
    architectural t = { architectural s with nowMs := t.nowMs } ∧
    t.nowMs.toNat = (s.nowMs.toNat + 1) % 2 ^ 32

/-- R241: a byte on the UART line joins `urx` behind the others when the UART is initialised and `urx` is not full.
Otherwise the step is not enabled; that the model's turn then passes without effect is log 15. -/
def Obligations.UartLineDelivers : Prop :=
  ∀ (s : State) (b : Byte), nextTurn s = .agent (.rx b) →
    (s.uart.frame.isSome = true → s.uart.rx.length < Config.UART_FIFO_DEPTH → ∃ t, step s = .next t ∧
      architectural t = { architectural s with uart := { s.uart with rx := s.uart.rx ++ [b] } }) ∧
    (s.uart.frame = none → ∃ t, step s = .next t ∧ architectural t = architectural s) ∧
    (Config.UART_FIFO_DEPTH ≤ s.uart.rx.length → ∃ t, step s = .next t ∧ architectural t = architectural s)

/-- Where the model refuses, as R99, R205 (d), U15, U19, U20 and R24 ask, with the names of log 17 to 20. -/
def Obligations.MisuseIsRefusedByName : Prop :=
  (∀ (s : State) (w : Word) (i : Instr), nextTurn s = .harness .w w → decode .w w = .ok i →
    (s.irqEn = true ∨ s.isrState = .drain) → step s = .refused .handlerEnabled) ∧
  (∀ (s : State) (w : Word) (i : Instr), nextTurn s = .harness .w w → decode .w w = .ok i →
    s.irqEn = false → s.isrState = .idle → s.wstep ≠ .idle → step s = .refused .portBusy) ∧
  (∀ (s : State) (w : Word) (i : Instr), nextTurn s = .harness .r w → decode .r w = .ok i →
    s.ustep ≠ .idle → step s = .refused .portBusy) ∧
  (∀ s : State, s.ustep = .idle → s.schedStep ≠ 0#3 → exec .boot s = .refused .secondBoot) ∧
  (∀ s : State, s.ustep = .b2 → s.usb.connected = false → exec .banner s = .refused .hostAbsent) ∧
  (∀ s : State, s.ustep = .e6 → s.usb.connected = false → exec .egress s = .refused .hostAbsent) ∧
  (∀ s : State, s.ustep = .i2 → s.usb.connected = false → exec .ingress s = .refused .hostAbsent) ∧
  (∀ s : State, s.wstep = .x1 → s.uart.rx = [] → exec .rxbyte s = .refused .uartEmpty) ∧
  (∀ s : State, nextTurn s = .agent .r → s.ustep = .idle → 6 ≤ s.schedStep.toNat →
    step s = .refused .reservedSchedStep)

/-! ## The ring buffer -/

/-- R110: NOP on either port reads and writes no state and answers 0x4000 on the port that carries it. -/
def Obligations.NopOnlyAnswers : Prop :=
  ∀ (s : State) (p : Port),
    exec .nop (present p (beginStep s) 0x0000#16) =
      .next (answered p (present p (beginStep s) 0x0000#16) 0x4000#16)

/-- R111, R112: PUT drops the byte and changes nothing when `(head + 1) mod C == tail_w`; otherwise it stores the byte at
`head`, moves `head` by one and changes nothing else, no other cell among it. -/
def Obligations.PutStoresUnlessFull : Prop :=
  ∀ (b : Byte) (s : State),
    (s.ring.head + 1#12 = s.ring.tailW → exec (.put b) s = .next (answeredW s 0x0000#16)) ∧
    (s.ring.head + 1#12 ≠ s.ring.tailW → ∃ t, exec (.put b) s = .next t ∧
      t = answeredW { s with ring := { s.ring with head := s.ring.head + 1#12, buf := t.ring.buf } } 0x4000#16 ∧
      memRead t s.ring.head = b ∧ ∀ a, a ≠ s.ring.head → memRead t a = memRead s a)

/-- R113: GET on a buffer the R domain sees empty answers 0x4000 and changes nothing; otherwise it answers the byte at
`tail` and moves `tail` by one. -/
def Obligations.GetReturnsTheOldestByte : Prop :=
  ∀ s : State,
    (s.ring.headR = s.ring.tail → exec .get s = .next (answeredR s 0x4000#16)) ∧
    (s.ring.headR ≠ s.ring.tail →
      exec .get s = .next (answeredR { s with ring := { s.ring with tail := s.ring.tail + 1#12 } }
        (0x6000#16 ||| (memRead s s.ring.tail).zeroExtend 16)))

/-- R114: PEEK i answers the byte at `(tail + i) mod C` when `i` is below the visible count and 0x4000 otherwise, and
changes no state. -/
def Obligations.PeekReadsWithoutReleasing : Prop :=
  ∀ (i : BitVec 6) (s : State),
    (i.toNat < (s.ring.headR - s.ring.tail).toNat →
      exec (.peek i) s = .next (answeredR s
        (0x6000#16 ||| (memRead s (s.ring.tail + i.zeroExtend 12)).zeroExtend 16))) ∧
    ((s.ring.headR - s.ring.tail).toNat ≤ i.toNat → exec (.peek i) s = .next (answeredR s 0x4000#16))

/-- R115: ADV on a buffer the R domain sees empty answers 0x0000 and changes nothing; otherwise it moves `tail` by one. -/
def Obligations.AdvReleasesOneByte : Prop :=
  ∀ s : State,
    (s.ring.headR = s.ring.tail → exec .adv s = .next (answeredR s 0x0000#16)) ∧
    (s.ring.headR ≠ s.ring.tail →
      exec .adv s = .next (answeredR { s with ring := { s.ring with tail := s.ring.tail + 1#12 } } 0x4000#16))

/-- R116: AVAIL answers `(head_r - tail + C) mod C` and changes no state. -/
def Obligations.AvailCountsVisibleBytes : Prop :=
  ∀ s : State, ∃ n : Index,
    n.toNat = (s.ring.headR.toNat + 4096 - s.ring.tail.toNat) % 4096 ∧
    exec .avail s = .next (answeredR s (0x4000#16 ||| n.zeroExtend 16))

/-- R117: GET answers what `PEEK 0` answers from the same state, leaves the registers ADV leaves, and its `valid` is
ADV's `ok`. -/
def Obligations.GetIsPeekThenAdv : Prop :=
  ∀ s : State, ∃ t u v : State,
    exec .get s = .next t ∧ exec (.peek 0#6) s = .next u ∧ exec .adv u = .next v ∧
    t.ports.rResp = u.ports.rResp ∧ architectural t = architectural v ∧
    t.ports.rResp.getLsbD 13 = v.ports.rResp.getLsbD 14

/-- R236, R70, R242, R288 on runs: where SyncH, SyncT or Time steps infinitely often, at every moment of the run a later
step copies `head`, copies `tail`, or advances `now_ms`, so that no shadow lags for ever (U17); and where the UART write is
fair, INGRESS's I3 ends. -/
def Obligations.FairRunsMakeProgress : Prop :=
  ∀ (sched : Nat → Turn) (r : Nat → State), Run sched r →
    (FairFor .syncH sched → ∀ n, ∃ m, n ≤ m ∧ (r (m + 1)).ring.headR = (r m).ring.head) ∧
    (FairFor .syncT sched → ∀ n, ∃ m, n ≤ m ∧ (r (m + 1)).ring.tailW = (r m).ring.tail) ∧
    (FairFor .time sched → ∀ n, ∃ m, n ≤ m ∧ (r (m + 1)).nowMs = (r m).nowMs + 1#32) ∧
    (WriteFair sched r → ∀ n j, (r n).ustep = .i3 j → j.toNat < (r n).scratch.inN.toNat →
      (r n).scratch.inN.toNat ≤ 64 → ∃ m, n ≤ m ∧ (r m).ustep = .i4)

/-- R77, R112, R119: from an empty buffer, any list of PUTs, one SyncH, and as many GETs: the GETs return the first
`C - 1` bytes put, in order, then nothing; and once `C - 1` are in, a further PUT fails. -/
def Obligations.QueueKeepsOrderAndDropsNewest : Prop :=
  ∀ (bs : List Byte) (s : State),
    s.ring.headR = s.ring.head → s.ring.tail = s.ring.head → s.ring.tailW = s.ring.head →
    ∃ t, execAll (bs.map .put) s = .next t ∧
      responsesR (List.replicate bs.length .get) (syncH t) =
        (bs.take 4095).map (fun b => 0x6000#16 ||| b.zeroExtend 16) ++
          List.replicate (bs.length - 4095) 0x4000#16 ∧
      (4095 ≤ bs.length → ∀ b, ∃ u, exec (.put b) t = .next u ∧ u.ports.wResp = 0x0000#16 ∧ u.ring = t.ring)

/-- R77, R73, R120 for every interleaving, step by step: where the ring invariant holds, a step leaves the bytes the buffer
holds as they are, or appends one at the end, the byte of a PUT that answers `ok = 1`, or takes the first away, by a GET that
answers it or by an ADV that answers `ok = 1`. -/
def Obligations.ContentsChangeOnlyAtTheEnds : Prop :=
  ∀ s t : State, RingInv s → step s = .next t →
    contents t = contents s ∨
    (∃ b, contents t = contents s ++ [b] ∧ t.ports.wResp = 0x4000#16 ∧
      (nextTurn s = .harness .w (encode (.put b)) ∨ (nextTurn s = .agent .w ∧ s.wstep = .x2 ∧ b = s.scratch.rxd))) ∨
    (∃ b, contents s = b :: contents t ∧
      ((nextTurn s = .harness .r 0x5000#16 ∧ t.ports.rResp = 0x6000#16 ||| b.zeroExtend 16) ∨
       (nextTurn s = .harness .r 0x8000#16 ∧ t.ports.rResp = 0x4000#16) ∨
       (nextTurn s = .agent .r ∧ (∃ j, s.ustep = .e8 j) ∧ t.ports.rResp = 0x4000#16)))

/-! ## The Activity Clock and the UART -/

/-- R131: TOUCHW and TOUCHR store the current `now_ms` whole and change nothing else. -/
def Obligations.TouchesStampTheTime : Prop :=
  ∀ s : State,
    exec .touchw s = .next (answeredW { s with lastActivity := s.nowMs } 0x4000#16) ∧
    exec .touchr s = .next (answeredR { s with lastActivity := s.nowMs } 0x4000#16)

/-- R132: only RXBYTE after its byte, INGRESS after a transfer of at least one byte, and a harness presenting TOUCHW or
TOUCHR move the Activity Clock, and each to the current time. -/
def Obligations.ActivityClockHasOnlyItsWriters : Prop :=
  ∀ s t : State, step s = .next t → t.lastActivity ≠ s.lastActivity →
    t.lastActivity = s.nowMs ∧
    ((nextTurn s = .agent .w ∧ s.wstep = .x3) ∨
     (nextTurn s = .agent .r ∧ s.ustep = .i4 ∧ s.scratch.inN ≠ 0#7) ∨
     nextTurn s = .harness .w 0x2000#16 ∨ nextTurn s = .harness .r 0x9000#16)

/-- R141, line by line: X0 tests the FIFO, X1 pops its oldest byte into `rxd`, X2 is `PUT rxd`, X3 is TOUCHW and the end
with `ok = 1`. -/
def Obligations.RxbyteMicroSteps : Prop :=
  ∀ s : State,
    (s.wstep = .idle → s.uart.rx = [] → exec .rxbyte s = .next (answeredW s 0x0000#16)) ∧
    (s.wstep = .idle → s.uart.rx ≠ [] → exec .rxbyte s = .next { s with wstep := .x1 }) ∧
    (∀ b rest, s.wstep = .x1 → s.uart.rx = b :: rest →
      exec .rxbyte s = .next { s with
        wstep := .x2
        uart := { s.uart with rx := rest }
        scratch := { s.scratch with rxd := b }
        strobes := { s.strobes with uartRxPop := true } }) ∧
    (s.wstep = .x2 → ∃ t, exec (.put s.scratch.rxd) (presentW s (encode (.put s.scratch.rxd))) = .next t ∧
      exec .rxbyte s = .next { t with wstep := .x3 }) ∧
    (s.wstep = .x3 → exec .rxbyte s = .next { s with
      wstep := .idle
      lastActivity := s.nowMs
      ports := { s.ports with wCmd := 0x2000#16, wCmdValid := true, wResp := 0x4000#16 } })

/-- R141 as a whole, no other agent moving: the byte leaves the FIFO and is stamped whether or not it is stored; it is
stored at `head` unless the buffer is full; four micro-steps suffice. -/
def Obligations.RxbyteMovesOneByte : Prop :=
  ∀ (s : State) (b : Byte) (rest : List Byte), s.wstep = .idle → s.uart.rx = b :: rest →
    ∃ t, runAlone .rxbyte 4 s = .next t ∧
      t = { s with
        ring := t.ring
        uart := { s.uart with rx := rest }
        scratch := { s.scratch with rxd := b }
        lastActivity := s.nowMs
        strobes := t.strobes
        ports := t.ports } ∧
      t.ports.wResp = 0x4000#16 ∧
      (s.ring.head + 1#12 = s.ring.tailW → t.ring = s.ring) ∧
      (s.ring.head + 1#12 ≠ s.ring.tailW →
        t.ring = { s.ring with head := s.ring.head + 1#12, buf := t.ring.buf } ∧
        memRead t s.ring.head = b ∧ ∀ a, a ≠ s.ring.head → memRead t a = memRead s a)

/-! ## Baud negotiation -/

/-- R171: the rate `r` that `lc_baud` shows is set on the UART and mirrored when it is 1 to 921600, and ignored otherwise;
the request is consumed either way and nothing else changes. With a request on the mailbox `r` is that request; with none
`r` is some 32-bit pattern (corner case i), one free value of the model's `env` used up (the model's form, log 12). That the
request is down in the same step is the model's reading of R248 (log 14). The last clause is corner case (f), the signed
reading of the guard. -/
def Obligations.BaudGuardSetsOrIgnores : Prop :=
  (∀ s : State, ∃ (r : Baud) (t : State), exec .baud s = .next t ∧
    (s.usb.lcValid = true → r = s.usb.lcBaud ∧ t.env = s.env) ∧
    (s.usb.lcValid = false → t.env = { s.env with draws := s.env.draws + 1 }) ∧
    (1 ≤ r.toNat ∧ r.toNat ≤ 921600 →
      t = answeredR { s with
        baudCfg := r
        uart := { s.uart with rate := r }
        usb := { s.usb with lcValid := false }
        strobes := { s.strobes with uartSetBaud := some r, lcAck := true }
        env := t.env } 0x4000#16) ∧
    (¬(1 ≤ r.toNat ∧ r.toNat ≤ 921600) →
      t = answeredR { s with
        usb := { s.usb with lcValid := false }
        strobes := { s.strobes with lcAck := true }
        env := t.env } 0x4000#16)) ∧
  (∀ p : Baud, (1 ≤ p.toNat ∧ p.toNat ≤ 921600) ↔ (0 < p.toInt ∧ p.toInt ≤ 921600))

/-- R31, R170: the UART's rate and `baud_cfg` change only by BOOT's first micro-step and by BAUD, alone or inside SVC,
and then to a legal rate, the same in both. -/
def Obligations.BaudRateHasOnlyItsWriters : Prop :=
  ∀ s t : State, step s = .next t → (t.baudCfg ≠ s.baudCfg ∨ t.uart.rate ≠ s.uart.rate) →
    1 ≤ t.baudCfg.toNat ∧ t.baudCfg.toNat ≤ 921600 ∧ t.uart.rate = t.baudCfg ∧
    ((nextTurn s = .agent .r ∧ (s.ustep = .s1 ∨ (s.ustep = .idle ∧ s.schedStep = 0#3))) ∨
     nextTurn s = .harness .r 0x4000#16 ∨ (nextTurn s = .harness .r 0xF000#16 ∧ s.schedStep = 0#3))

/-! ## EGRESS -/

/-- R151, line by line. E6 is stated with the host connected, which E0 made sure of (U15 refuses otherwise). That EGRESS
ends with the flush when no byte was accepted, a loop E8 of no turns, is the model's reading (log 4). -/
def Obligations.EgressMicroSteps : Prop :=
  ∀ s : State,
    (s.ustep = .idle → s.usb.connected = false → ∃ t, exec .egress s = .next t ∧ Ended 3#3 s t) ∧
    (s.ustep = .idle → s.usb.connected = true → exec .egress s = .next { s with ustep := .e1 }) ∧
    (s.ustep = .e1 → ∃ t, exec .avail (presentR s 0x6000#16) = .next t ∧
      exec .egress s = .next { t with
        ustep := .e2, scratch := { s.scratch with egA := s.ring.headR - s.ring.tail } }) ∧
    (s.ustep = .e2 → exec .egress s = .next { s with
      ustep := .e3, scratch := { s.scratch with egS := s.usb.space } }) ∧
    (s.ustep = .e3 → ∃ k : Count, k.toNat = min s.scratch.egA.toNat (min s.scratch.egS 64) ∧
      exec .egress s = .next { s with ustep := .e4, scratch := { s.scratch with egK := k, egGot := 0#7 } }) ∧
    (s.ustep = .e4 → s.scratch.egK = 0#7 → ∃ t, exec .egress s = .next t ∧ Ended 3#3 s t) ∧
    (s.ustep = .e4 → s.scratch.egK ≠ 0#7 → exec .egress s = .next { s with ustep := .e5 0#6 }) ∧
    (∀ i, s.ustep = .e5 i → ∃ t, exec (.peek i) (presentR s (encode (.peek i))) = .next t ∧
      (i.toNat < (s.ring.headR - s.ring.tail).toNat →
        exec .egress s = .next { t with
          ustep := if i.toNat + 1 < s.scratch.egK.toNat then .e5 (i + 1#6) else .e6
          scratch := { s.scratch with
            egBuf := s.scratch.egBuf.set i.toNat (memRead s (s.ring.tail + i.zeroExtend 12))
            egGot := BitVec.ofNat 7 (i.toNat + 1) } }) ∧
      ((s.ring.headR - s.ring.tail).toNat ≤ i.toNat → exec .egress s = .next { t with ustep := .e6 })) ∧
    (∀ offered acc, s.ustep = .e6 → s.usb.connected = true →
      offered = s.scratch.egBuf.take s.scratch.egGot.toNat → acc = min offered.length s.usb.space →
      exec .egress s = .next { s with
        ustep := .e7
        scratch := { s.scratch with egAcc := BitVec.ofNat 7 (min acc s.scratch.egGot.toNat) }
        usb := { s.usb with tx := s.usb.tx ++ (offered.take acc).map .byte, space := s.usb.space - acc }
        strobes := { s.strobes with usbWr := some offered } }) ∧
    (s.ustep = .e7 → s.scratch.egAcc ≠ 0#7 → exec .egress s = .next { s with
      ustep := .e8 0#7
      usb := { s.usb with tx := s.usb.tx ++ [.flush] }
      strobes := { s.strobes with usbFlush := true } }) ∧
    (s.ustep = .e7 → s.scratch.egAcc = 0#7 → ∃ t, exec .egress s = .next t ∧
      Ended 3#3 { s with
        usb := { s.usb with tx := s.usb.tx ++ [.flush] }
        strobes := { s.strobes with usbFlush := true } } t) ∧
    (∀ j, s.ustep = .e8 j → ∃ t, exec .adv (presentR s 0x8000#16) = .next t ∧
      (j.toNat + 1 < s.scratch.egAcc.toNat → exec .egress s = .next { t with ustep := .e8 (j + 1#7) }) ∧
      (s.scratch.egAcc.toNat ≤ j.toNat + 1 → ∃ u, exec .egress s = .next u ∧ Ended 3#3 t u))

/-- R151, R152, R155, R157 as a whole, no other agent moving: with the host connected EGRESS sends exactly the
`min(available, space, 64)` oldest bytes in order, one write and one flush, releases exactly those, and changes nothing
else but its working registers; with none to send it writes and flushes nothing. It takes at most 135 micro-steps. -/
def Obligations.EgressSendsTheOldestBytes : Prop :=
  ∀ (s : State) (n : Nat), s.ustep = .idle → s.usb.connected = true → s.scratch.egBuf.length = 64 →
    n = min (s.ring.headR - s.ring.tail).toNat (min s.usb.space 64) →
    ∃ t, runAlone .egress 135 s = .next t ∧
      t = { s with
        ring := { s.ring with tail := s.ring.tail + BitVec.ofNat 12 n }
        schedStep := t.schedStep
        scratch := { s.scratch with
          egBuf := t.scratch.egBuf, egA := t.scratch.egA, egS := t.scratch.egS, egK := t.scratch.egK,
          egGot := t.scratch.egGot, egAcc := t.scratch.egAcc }
        usb := { s.usb with tx := t.usb.tx, space := s.usb.space - n }
        strobes := t.strobes
        ports := t.ports } ∧
      t.ports.rResp = 0x4000#16 ∧
      t.usb.tx =
        if n = 0 then s.usb.tx
        else s.usb.tx ++
          ((List.range n).map fun k => .byte (memRead s (s.ring.tail + BitVec.ofNat 12 k))) ++ [.flush]

/-! ## INGRESS -/

/-- R161, line by line. I2 is stated with the host connected, which I0 made sure of (U15 refuses otherwise). That an empty
read goes straight to I4 is the model's reading (log 4); that I3 waits with no effect while `uart_tx_ready` is low is log
16's (R162, R242). -/
def Obligations.IngressMicroSteps : Prop :=
  ∀ s : State,
    (s.ustep = .idle → s.usb.connected = false → ∃ t, exec .ingress s = .next t ∧ Ended 4#3 s t) ∧
    (s.ustep = .idle → s.usb.connected = true → exec .ingress s = .next { s with ustep := .i1 }) ∧
    (s.ustep = .i1 → s.usb.rx = [] → ∃ t, exec .ingress s = .next t ∧ Ended 4#3 s t) ∧
    (s.ustep = .i1 → s.usb.rx ≠ [] → exec .ingress s = .next { s with ustep := .i2 }) ∧
    (s.ustep = .i2 → s.usb.connected = true → s.usb.rx ≠ [] → ∃ n : Count,
      n.toNat = min s.usb.rx.length 64 ∧
      exec .ingress s = .next { s with
        ustep := .i3 0#6
        usb := { s.usb with rx := s.usb.rx.drop 64 }
        scratch := { s.scratch with
          inN := n, inBuf := s.usb.rx.take 64 ++ s.scratch.inBuf.drop n.toNat }
        strobes := { s.strobes with usbRd := true } }) ∧
    (s.ustep = .i2 → s.usb.connected = true → s.usb.rx = [] → exec .ingress s = .next { s with
      ustep := .i4
      scratch := { s.scratch with inN := 0#7 }
      strobes := { s.strobes with usbRd := true } }) ∧
    (∀ j, s.ustep = .i3 j → s.uart.txReady = false → exec .ingress s = .next s) ∧
    (∀ j b, s.ustep = .i3 j → s.uart.txReady = true → s.scratch.inBuf[j.toNat]? = some b →
      exec .ingress s = .next { s with
        ustep := if j.toNat + 1 < s.scratch.inN.toNat then .i3 (j + 1#6) else .i4
        uart := { s.uart with tx := s.uart.tx ++ [b] }
        strobes := { s.strobes with uartTxPush := some b } }) ∧
    (s.ustep = .i4 → s.scratch.inN = 0#7 → ∃ t, exec .ingress s = .next t ∧ Ended 4#3 s t) ∧
    (s.ustep = .i4 → s.scratch.inN ≠ 0#7 → ∃ t u,
      exec .touchr (presentR s 0x9000#16) = .next t ∧ exec .ingress s = .next u ∧ Ended 4#3 t u)

/-- R161, R163 as a whole, no other agent moving and the UART ready: the oldest host bytes, at most 64, go to the UART
unchanged and in order, the Activity Clock is stamped, and nothing else changes but `in_buf` and `in_n`. -/
def Obligations.IngressForwardsHostBytes : Prop :=
  ∀ s : State, s.ustep = .idle → s.usb.connected = true → s.usb.rx ≠ [] → s.uart.txReady = true →
    ∃ t, runAlone .ingress 68 s = .next t ∧
      t = { s with
        schedStep := t.schedStep
        lastActivity := s.nowMs
        scratch := { s.scratch with inBuf := t.scratch.inBuf, inN := t.scratch.inN }
        uart := { s.uart with tx := s.uart.tx ++ s.usb.rx.take 64 }
        usb := { s.usb with rx := s.usb.rx.drop 64 }
        strobes := t.strobes
        ports := t.ports } ∧
      t.ports.rResp = 0x4000#16

/-! ## INDIC -/

/-- R181, line by line. -/
def Obligations.IndicMicroSteps : Prop :=
  ∀ s : State,
    (s.ustep = .idle → exec .indic s = .next { s with
      ustep := .l1, scratch := { s.scratch with tLa := s.lastActivity } }) ∧
    (s.ustep = .l1 → exec .indic s = .next { s with
      ustep := .l2, scratch := { s.scratch with tNow := s.nowMs } }) ∧
    (s.ustep = .l2 → (s.scratch.tNow - s.led.last).toNat < 100 →
      ∃ t, exec .indic s = .next t ∧ Ended 5#3 s t) ∧
    (s.ustep = .l2 → 100 ≤ (s.scratch.tNow - s.led.last).toNat → exec .indic s = .next { s with ustep := .l3 }) ∧
    (s.ustep = .l3 → exec .indic s = .next { s with
      ustep := .l4, led := { s.led with last := s.scratch.tNow } }) ∧
    (s.ustep = .l4 → (s.scratch.tNow - s.scratch.tLa).toNat < 200 →
      ∃ t, exec .indic s = .next t ∧ Ended 5#3 { s with led := { s.led with mode := 0#2, out := !s.led.out } } t) ∧
    (s.ustep = .l4 → 200 ≤ (s.scratch.tNow - s.scratch.tLa).toNat → s.usb.connected = true →
      ∃ t, exec .indic s = .next t ∧ Ended 5#3 { s with led := { s.led with mode := 1#2, out := true } } t) ∧
    (s.ustep = .l4 → 200 ≤ (s.scratch.tNow - s.scratch.tLa).toNat → s.usb.connected = false →
      ∃ t, exec .indic s = .next t ∧ Ended 5#3 { s with led := { s.led with
        mode := 2#2, phase := s.led.phase + 1#8, out := (s.led.phase + 1#8).getLsbD 2 } } t)

/-- R182, R183 to R186 as a whole, no other agent moving: a closed gate leaves the indicator alone; an open gate takes
the time and shows the first that holds of activity, connection, idle. -/
def Obligations.IndicatorShowsTheFirstThatHolds : Prop :=
  ∀ s : State, s.ustep = .idle →
    ∃ t, runAlone .indic 5 s = .next t ∧
      t = { s with
        schedStep := t.schedStep
        led := t.led
        scratch := { s.scratch with tLa := s.lastActivity, tNow := s.nowMs }
        ports := { s.ports with rResp := 0x4000#16 } } ∧
      ((s.nowMs - s.led.last).toNat < 100 → t.led = s.led) ∧
      (100 ≤ (s.nowMs - s.led.last).toNat →
        t.led.last = s.nowMs ∧
        ((s.nowMs - s.lastActivity).toNat < 200 →
          t.led.mode = 0#2 ∧ t.led.out = !s.led.out ∧ t.led.phase = s.led.phase) ∧
        (200 ≤ (s.nowMs - s.lastActivity).toNat → s.usb.connected = true →
          t.led.mode = 1#2 ∧ t.led.out = true ∧ t.led.phase = s.led.phase) ∧
        (200 ≤ (s.nowMs - s.lastActivity).toNat → s.usb.connected = false →
          t.led.mode = 2#2 ∧ t.led.phase = s.led.phase + 1#8 ∧ t.led.out = t.led.phase.getLsbD 2))

/-! ## BANNER, SVC, BOOT and the scheduler -/

/-- R191, line by line. B2 is stated with the host connected, which B1 made sure of (U15 refuses otherwise). -/
def Obligations.BannerMicroSteps : Prop :=
  ∀ s : State,
    (s.ustep = .idle → s.bannerSent = true → ∃ t, exec .banner s = .next t ∧ Ended 2#3 s t) ∧
    (s.ustep = .idle → s.bannerSent = false → exec .banner s = .next { s with ustep := .b1 }) ∧
    (s.ustep = .b1 → s.usb.connected = false → ∃ t, exec .banner s = .next t ∧ Ended 2#3 s t) ∧
    (s.ustep = .b1 → s.usb.connected = true → exec .banner s = .next { s with ustep := .b2 }) ∧
    (∀ acc, s.ustep = .b2 → s.usb.connected = true → acc = min Config.BANNER.length s.usb.space →
      exec .banner s = .next { s with
        ustep := .b3
        usb := { s.usb with tx := s.usb.tx ++ (Config.BANNER.take acc).map .byte, space := s.usb.space - acc }
        strobes := { s.strobes with usbWr := some Config.BANNER } }) ∧
    (s.ustep = .b3 → exec .banner s = .next { s with
      ustep := .b4
      usb := { s.usb with tx := s.usb.tx ++ [.flush] }
      strobes := { s.strobes with usbFlush := true } }) ∧
    (s.ustep = .b4 → ∃ t, exec .banner s = .next t ∧ Ended 2#3 { s with bannerSent := true } t)

/-- R29, R192: no step clears `banner_sent`, only B4 of BANNER sets it, and once it is set BANNER ends at once and sends
nothing. -/
def Obligations.BannerIsSentOncePerPowerCycle : Prop :=
  (∀ s t : State, step s = .next t → s.bannerSent = true → t.bannerSent = true) ∧
  (∀ s t : State, step s = .next t → s.bannerSent = false → t.bannerSent = true →
    nextTurn s = .agent .r ∧ s.ustep = .b4) ∧
  (∀ s : State, s.ustep = .idle → s.bannerSent = true →
    ∃ t, runAlone .banner 5 s = .next t ∧ Ended 2#3 s t ∧ t.usb = s.usb)

/-- R279: until BANNER's write the USB transmit buffer is empty (`BannerPending`): so at reset, that it is empty then being
log 10's reading of R279 and D23; every step of every agent keeps it so, a harness apart; and there BANNER's write accepts the
whole banner (R191 a). -/
def Obligations.BannerFindsTheBufferEmpty : Prop :=
  BannerPending State.reset ∧
  (∀ (s t : State) (a : AgentTurn), nextTurn s = .agent a → BannerPending s → step s = .next t → BannerPending t) ∧
  (∀ s : State, BannerPending s → s.bannerSent = false → s.ustep = .b2 → s.usb.connected = true →
    ∃ t, exec .banner s = .next t ∧ t.usb.tx = s.usb.tx ++ Config.BANNER.map .byte ∧
      t.usb.space = Config.USB_TXBUF - Config.BL)

/-- R203, line by line, for whatever `a` EnvB does (R244): S0 lets EnvB move and presents the oldest waiting request on a
free mailbox, S1 issues BAUD exactly when a request is held. That the requests wait in `lcQueue` and that the act comes from
`hostActs` is the model's choice (log 13); that `usb_rx` keeps its bytes and takes new ones also where `a` disconnects the
host, which R164 leaves outside the spec, is log 31's. -/
def Obligations.SvcMicroSteps : Prop :=
  ∀ s : State,
    (∀ a, s.ustep = .idle → nextHostAct s = a → ∃ t, exec .svc s = .next t ∧
      t = { s with
        ustep := .s1
        usb := t.usb
        strobes := { s.strobes with usbService := true }
        env := t.env } ∧
      t.env.turns = s.env.turns ∧ t.env.hostActs = s.env.hostActs.tail ∧
      t.usb.connected = a.connected ∧ t.usb.space = max s.usb.space (min a.space Config.USB_TXBUF) ∧
      t.usb.rx = s.usb.rx ++ a.bytes ∧ t.usb.tx = s.usb.tx ∧
      (s.usb.lcValid = true →
        t.usb.lcValid = true ∧ t.usb.lcBaud = s.usb.lcBaud ∧ t.usb.lcQueue = s.usb.lcQueue ++ a.requests) ∧
      (s.usb.lcValid = false → s.usb.lcQueue ++ a.requests = [] →
        t.usb.lcValid = false ∧ t.usb.lcQueue = []) ∧
      (∀ r q, s.usb.lcValid = false → s.usb.lcQueue ++ a.requests = r :: q →
        t.usb.lcValid = true ∧ t.usb.lcBaud = r ∧ t.usb.lcQueue = q)) ∧
    (s.ustep = .s1 → s.usb.lcValid = false → ∃ t, exec .svc s = .next t ∧ Ended 1#3 s t) ∧
    (s.ustep = .s1 → s.usb.lcValid = true → ∃ t u,
      exec .baud (presentR s 0x4000#16) = .next t ∧ exec .svc s = .next u ∧ Ended 1#3 t u)

/-- R205, line by line; a second BOOT is refused, as corner case (d) asks of a model; and the rule's example: from reset,
`baud_cfg = 115200`, `irq_en = 1`, `sched_step = 1`, every other register at its reset value. -/
def Obligations.BootMicroSteps : Prop :=
  (∀ s : State,
    (s.ustep = .idle → s.schedStep = 0#3 → exec .boot s = .next { s with
      ustep := .t1
      baudCfg := 115200#32
      uart := { s.uart with
        rate := 115200#32, frame := some { dataBits := 8, stopBits := 1, parity := .none } }
      strobes := { s.strobes with uartInit := some 115200#32 } }) ∧
    (s.ustep = .idle → s.schedStep ≠ 0#3 → exec .boot s = .refused .secondBoot) ∧
    (s.ustep = .t1 → exec .boot s = .next { s with
      ustep := .t2
      uart := { s.uart with fifoOn := true }
      strobes := { s.strobes with uartFifoEn := true } }) ∧
    (s.ustep = .t2 → ∃ t, exec .boot s = .next t ∧ Ended 0#3 { s with irqEn := true } t)) ∧
  (∃ t, runAlone .boot 3 State.reset = .next t ∧
    t = { State.reset with
      baudCfg := 115200#32
      irqEn := true
      schedStep := 1#3
      uart := { State.reset.uart with
        rate := 115200#32, fifoOn := true, frame := some { dataBits := 8, stopBits := 1, parity := .none } }
      strobes := t.strobes
      ports := { State.reset.ports with rResp := 0x4000#16 } })

/-- R24, R201: whatever moves, `sched_step` stays or goes to its successor at the end of an operation, in the R domain's
own step; the successor of 5 is 1, and 0 is never reached again. -/
def Obligations.SchedulerStepsInOrder : Prop :=
  ∀ s t : State, step s = .next t → t.schedStep ≠ s.schedStep →
    rMoves s ∧ t.ustep = .idle ∧
    ((s.schedStep = 0#3 ∧ t.schedStep = 1#3) ∨ (s.schedStep = 1#3 ∧ t.schedStep = 2#3) ∨
     (s.schedStep = 2#3 ∧ t.schedStep = 3#3) ∨ (s.schedStep = 3#3 ∧ t.schedStep = 4#3) ∨
     (s.schedStep = 4#3 ∧ t.schedStep = 5#3) ∨ (s.schedStep = 5#3 ∧ t.schedStep = 1#3))

/-- R32, R243: no step disables the receive interrupt, only BOOT's last micro-step enables it, and the UART's frame is
never changed to anything but the one `uart.init` sets. -/
def Obligations.InterruptStaysEnabledOnceBooted : Prop :=
  ∀ s t : State, step s = .next t →
    (s.irqEn = true → t.irqEn = true) ∧
    (s.irqEn = false → t.irqEn = true → nextTurn s = .agent .r ∧ s.ustep = .t2) ∧
    (t.uart.frame = s.uart.frame ∨ t.uart.frame = some { dataBits := 8, stopBits := 1, parity := .none })

/-- R208, R244, R249: outside `usb.service()` Collaborator B's state changes only through the block's own calls: space
falls only by the bytes that BANNER's or EGRESS's write puts into the stream, the stream grows only by those and by their
flushes, host bytes leave only by INGRESS's read, a request goes only by BAUD, and the connection, the request's rate and
the waiting requests (the model's queue, log 13) stay. -/
def Obligations.ConnectionChangesOnlyInService : Prop :=
  ∀ s t : State, step s = .next t → ¬serviceMoves s →
    t.usb.connected = s.usb.connected ∧ t.usb.lcBaud = s.usb.lcBaud ∧ t.usb.lcQueue = s.usb.lcQueue ∧
    ((t.usb.tx = s.usb.tx ∧ t.usb.space = s.usb.space) ∨
     (nextTurn s = .agent .r ∧ (s.ustep = .b2 ∨ s.ustep = .e6) ∧
       ∃ bs : List Byte, t.usb.tx = s.usb.tx ++ bs.map .byte ∧ t.usb.space + bs.length = s.usb.space) ∨
     (nextTurn s = .agent .r ∧ (s.ustep = .b3 ∨ s.ustep = .e7) ∧ t.usb.tx = s.usb.tx ++ [.flush] ∧
       t.usb.space = s.usb.space)) ∧
    (t.usb.rx = s.usb.rx ∨ (nextTurn s = .agent .r ∧ s.ustep = .i2 ∧ t.usb.rx = s.usb.rx.drop 64)) ∧
    (t.usb.lcValid = s.usb.lcValid ∨
     (t.usb.lcValid = false ∧ ((nextTurn s = .agent .r ∧ s.ustep = .s1) ∨ nextTurn s = .harness .r 0x4000#16)))

/-! ## The whole machine -/

/-- R21, R230: each domain writes only its own registers: outside the W domain's steps `head`, the storage, `rxd`,
`isr_state` and RXBYTE's position stay; outside the R domain's steps `tail`, the sequencer, the flags, the indicator, the
baud and interrupt registers, the transmit stream and Collaborator B stay. -/
def Obligations.RegistersHaveOneWritingDomain : Prop :=
  ∀ s t : State, step s = .next t →
    (¬wMoves s →
      t.ring.head = s.ring.head ∧ t.ring.buf = s.ring.buf ∧ t.scratch.rxd = s.scratch.rxd ∧
      t.isrState = s.isrState ∧ t.wstep = s.wstep) ∧
    (¬rMoves s →
      t.ring.tail = s.ring.tail ∧ t.schedStep = s.schedStep ∧ t.ustep = s.ustep ∧ t.bannerSent = s.bannerSent ∧
      t.led = s.led ∧ t.baudCfg = s.baudCfg ∧ t.irqEn = s.irqEn ∧ t.usb = s.usb ∧ t.uart.tx = s.uart.tx ∧
      t.uart.rate = s.uart.rate ∧ t.uart.frame = s.uart.frame ∧ t.uart.fifoOn = s.uart.fifoOn ∧
      t.scratch = { s.scratch with rxd := t.scratch.rxd })

/-- R76: in one step `head` and `tail` move by at most one position, forwards. -/
def Obligations.IndicesMoveOnePositionPerStep : Prop :=
  ∀ s t : State, step s = .next t →
    (t.ring.head = s.ring.head ∨ t.ring.head = s.ring.head + 1#12) ∧
    (t.ring.tail = s.ring.tail ∨ t.ring.tail = s.ring.tail + 1#12)

/-- R71: a shadow keeps its value or takes its source's current one, and only its synchroniser moves it (under the
normative `SYNC = lagged`). -/
def Obligations.ShadowsOnlyCopyTheirSources : Prop :=
  ∀ s t : State, step s = .next t →
    (t.ring.headR ≠ s.ring.headR → nextTurn s = .agent .syncH ∧ t.ring.headR = s.ring.head) ∧
    (t.ring.tailW ≠ s.ring.tailW → nextTurn s = .agent .syncT ∧ t.ring.tailW = s.ring.tail)

/-- R72: `d1 + d2 + d3 <= C - 1` holds at reset and every step of every agent keeps it, from any state in which it holds;
where it holds, at most `C - 1` bytes are held, the consumer sees no more than there are and the producer no fewer. -/
def Obligations.RingInvariantIsKept : Prop :=
  RingInv State.reset ∧ (∀ s t : State, RingInv s → step s = .next t → RingInv t) ∧
  (∀ s : State, RingInv s →
    occupancy s ≤ 4095 ∧ seen s ≤ occupancy s ∧ occupancy s ≤ lagTail s + seen s + unseen s)

/-- R22 (b) to (e), R72: where the ring invariant holds, the occupancy is `d2 + d3` and at most `C - 1`, empty is
`head == tail`, and full is `(head + 1) mod C == tail`. -/
def Obligations.OccupancyFollowsFromTheRingInvariant : Prop :=
  ∀ s : State, RingInv s →
    occupancy s = seen s + unseen s ∧ occupancy s ≤ 4095 ∧
    (occupancy s = 0 ↔ s.ring.head = s.ring.tail) ∧
    (occupancy s = 4095 ↔ s.ring.head + 1#12 = s.ring.tail)

/-- Every step keeps the storage in its canonical form, indices strictly rising and below `C` (R60, log 7). -/
def Obligations.StorageStaysCanonical : Prop :=
  ∀ s t : State, Memory.wf s.ring.buf → step s = .next t → Memory.wf t.ring.buf

/-- R73 (a): no step of any agent changes a resident byte, one from `tail` forward to `head - 1`. -/
def Obligations.ResidentBytesAreNotOverwritten : Prop :=
  ∀ (s t : State) (k : Nat), RingInv s → step s = .next t → k < occupancy s →
    memRead t (s.ring.tail + BitVec.ofNat 12 k) = memRead s (s.ring.tail + BitVec.ofNat 12 k)

/-- R73 (b), (c): in a good state every cell that GET or PEEK reads has been written since reset, so what they answer
does not rest on the storage's unspecified reset contents. -/
def Obligations.OnlyWrittenCellsAreRead : Prop :=
  ∀ s : State, Inv s →
    (s.ring.headR ≠ s.ring.tail → ∃ b, Memory.lookup s.ring.buf s.ring.tail.toNat = some b ∧
      ∃ t, exec .get s = .next t ∧ t.ports.rResp = 0x6000#16 ||| b.zeroExtend 16) ∧
    (∀ i : BitVec 6, i.toNat < seen s → ∃ b,
      Memory.lookup s.ring.buf (s.ring.tail + i.zeroExtend 12).toNat = some b ∧
      ∃ t, exec (.peek i) s = .next t ∧ t.ports.rResp = 0x6000#16 ||| b.zeroExtend 16)

/-- Every step keeps `Inv`: canonical storage, the ring invariant, resident cells written, legal register values, the
boot facts, and what each micro-step position may rely on (R22, R24, R30, R31, R37, R72, R73, R154, R155, R244). -/
def Obligations.GoodStatesAreKept : Prop :=
  ∀ s t : State, Inv s → step s = .next t → Inv t

/-- The state after reset is good. Beside the spec's reset values (R41, R260, R262) this rests on values the model chose: the
UART's rate, equal to `baud_cfg` (log 10), the counts and the lengths of the private buffers (log 8), the USB transmit space
(log 10), the storage's list (log 7) and RXBYTE's position (log 4). -/
def Obligations.ResetStateIsGood : Prop := Inv State.reset

/-- R206, R220: from a good state every step of every agent answers a next state; only a harness can make the model
stop. -/
def Obligations.NoAgentStopsTheLoop : Prop :=
  ∀ (s : State) (a : AgentTurn), Inv s → nextTurn s = .agent a → ∃ t, step s = .next t

/-- R41, R260, R262: the values the spec gives for reset. The private registers, which it leaves unspecified, are not
named here. -/
def Obligations.ResetLeavesTheSpecsValues : Prop :=
  State.reset.ring.head = 0#12 ∧ State.reset.ring.tail = 0#12 ∧ State.reset.ring.headR = 0#12 ∧
  State.reset.ring.tailW = 0#12 ∧ State.reset.schedStep = 0#3 ∧ State.reset.ustep = .idle ∧
  State.reset.isrState = .idle ∧ State.reset.irqEn = false ∧ State.reset.lastActivity = 0#32 ∧
  State.reset.bannerSent = false ∧ State.reset.led = { mode := 2#2, phase := 0#8, last := 0#32, out := false } ∧
  State.reset.baudCfg = 0#32 ∧ State.reset.nowMs = 0#32 ∧ State.reset.strobes = Strobes.quiet ∧
  State.reset.uart.rx = [] ∧ State.reset.usb.rx = [] ∧ State.reset.usb.connected = false ∧
  State.reset.usb.lcValid = false

/-- R75: the Gray code is inverted by the decoder, successive indices have codes one bit apart, the wrap included, and
the rule's examples hold. -/
def Obligations.GrayCodeCrossesOneBitAtATime : Prop :=
  (∀ x : Index, ungray (gray x) = x ∧ oneBitApart (gray x) (gray (x + 1#12)) = true) ∧
  gray 0#12 = 0x000#12 ∧ gray 1#12 = 0x001#12 ∧ gray 2#12 = 0x003#12 ∧ gray 3#12 = 0x002#12 ∧
  gray 2047#12 = 0x400#12 ∧ gray 2048#12 = 0xC00#12 ∧ gray 4095#12 = 0x800#12
end

