-- ==== Sys2Proof/Laws/Memory.lean ====
section
/-! SUPPORT. The laws of the ring storage: a cell reads as last written, a write leaves every other cell alone, and the
canonical form is kept. -/

namespace Sys2Proof.Machine

/-- The cell written reads as the byte written. -/
theorem lookup_store_same (m : Memory) (a : Nat) (b : Byte) :
    Memory.lookup (Memory.store m a b) a = some b := by
  induction m with
  | nil => simp [Memory.store, Memory.lookup]
  | cons c m ih =>
    unfold Memory.store
    split
    · simp [Memory.lookup]
    · split
      · simp [Memory.lookup]
      · rename_i _ h
        have h' : ¬c.1 = a := fun e => h e.symm
        simp [Memory.lookup, ih, h']

/-- Every other cell reads as before. -/
theorem lookup_store_other (m : Memory) {a x : Nat} (b : Byte) (h : x ≠ a) :
    Memory.lookup (Memory.store m a b) x = Memory.lookup m x := by
  induction m with
  | nil => simp [Memory.store, Memory.lookup, h.symm]
  | cons c m ih =>
    unfold Memory.store
    split
    · simp [Memory.lookup, h.symm]
    · split
      · rename_i _ e
        simp [Memory.lookup, h.symm, ← e]
      · simp [Memory.lookup, ih]

/-- The cells of a written list are the cell written and cells of the old list. -/
theorem mem_store {m : Memory} {a : Nat} {b : Byte} {c : Host.Cell} (h : c ∈ Memory.store m a b) :
    c = (a, b) ∨ c ∈ m := by
  induction m with
  | nil => simpa [Memory.store] using h
  | cons d m ih =>
    unfold Memory.store at h
    split at h
    · simpa using h
    · split at h
      · rcases List.mem_cons.1 h with h | h
        · exact .inl h
        · exact .inr (List.mem_cons_of_mem _ h)
      · rcases List.mem_cons.1 h with h | h
        · exact .inr (h ▸ List.mem_cons_self)
        · exact (ih h).imp_right (List.mem_cons_of_mem _)

/-- A write inside the storage keeps the canonical form. -/
theorem wf_store {m : Memory} {a : Nat} (b : Byte) (h : Memory.wf m) (ha : a < Config.C) :
    Memory.wf (Memory.store m a b) := by
  refine ⟨?_, fun c hc => ?_⟩
  · have hp := h.1
    clear h
    induction m with
    | nil => simp [Memory.store]
    | cons d m ih =>
      obtain ⟨hd, hm⟩ := List.pairwise_cons.1 hp
      unfold Memory.store
      split
      · rename_i hlt
        refine List.pairwise_cons.2 ⟨fun c hc => ?_, hp⟩
        rcases List.mem_cons.1 hc with rfl | hc
        · exact hlt
        · exact hlt.trans (hd c hc)
      · split
        · rename_i _ e
          exact List.pairwise_cons.2 ⟨fun c hc => by simpa [e] using hd c hc, hm⟩
        · rename_i hlt hne
          refine List.pairwise_cons.2 ⟨fun c hc => ?_, ih hm⟩
          rcases mem_store hc with rfl | hc
          · show d.1 < a
            omega
          · exact hd c hc
  · rcases mem_store hc with rfl | hc
    · exact ha
    · exact h.2 c hc

/-- Every index names a cell of the storage (R60). -/
theorem index_lt_capacity (a : Index) : a.toNat < Config.C := by
  have := a.isLt
  simpa [Config.C] using this

/-- `memWrite` then `memRead` of the same cell. -/
theorem memRead_memWrite_same (s : State) (a : Index) (v : Byte) : memRead (memWrite s a v) a = v := by
  simp [memRead, memWrite, lookup_store_same]

/-- `memWrite` then `memRead` of another cell. -/
theorem memRead_memWrite_other (s : State) {a x : Index} (v : Byte) (h : x ≠ a) :
    memRead (memWrite s a v) x = memRead s x := by
  have h' : x.toNat ≠ a.toNat := fun e => h (BitVec.eq_of_toNat_eq e)
  simp [memRead, memWrite, lookup_store_other _ _ h']

/-- `memWrite` keeps the canonical form. -/
theorem memWrite_wf (s : State) (a : Index) (v : Byte) (h : Memory.wf s.ring.buf) :
    Memory.wf (memWrite s a v).ring.buf :=
  wf_store v h (index_lt_capacity a)

/-- The storage after reset is in canonical form. -/
theorem reset_wf : Memory.wf State.reset.ring.buf := by decide

/-- What a cell reads as depends on the storage only. -/
theorem memRead_congr {s t : State} (h : t.ring.buf = s.ring.buf) (a : Index) : memRead t a = memRead s a := by
  simp [memRead, h]

end Sys2Proof.Machine
end

