-- ==== Sys2Proof/Laws/State.lean ====
section
/-! SUPPORT. For every update of the state, what each field is afterwards: one simp rule per field, so that no later proof
unfolds a record update. Each theorem is the conjunction of its field rules. -/

namespace Sys2Proof.Machine

/-- Fields after: a write of one cell changes the storage only. -/
@[simp] theorem memWrite_fields (s : State) (a : Index) (v : Byte) :
    (memWrite s a v).ring = { s.ring with buf := Memory.store s.ring.buf a.toNat v } ∧
    (memWrite s a v).schedStep = s.schedStep ∧
    (memWrite s a v).ustep = s.ustep ∧
    (memWrite s a v).isrState = s.isrState ∧
    (memWrite s a v).wstep = s.wstep ∧
    (memWrite s a v).irqEn = s.irqEn ∧
    (memWrite s a v).lastActivity = s.lastActivity ∧
    (memWrite s a v).bannerSent = s.bannerSent ∧
    (memWrite s a v).led = s.led ∧
    (memWrite s a v).baudCfg = s.baudCfg ∧
    (memWrite s a v).scratch = s.scratch ∧
    (memWrite s a v).nowMs = s.nowMs ∧
    (memWrite s a v).uart = s.uart ∧
    (memWrite s a v).usb = s.usb ∧
    (memWrite s a v).strobes = s.strobes ∧
    (memWrite s a v).ports = s.ports ∧
    (memWrite s a v).env = s.env :=
  ⟨rfl, rfl, rfl, rfl, rfl, rfl, rfl, rfl, rfl, rfl, rfl, rfl, rfl, rfl, rfl, rfl, rfl⟩

/-- Fields after: SyncH changes `head_r` only (R70). -/
@[simp] theorem syncH_fields (s : State) :
    (syncH s).ring = { s.ring with headR := s.ring.head } ∧
    (syncH s).schedStep = s.schedStep ∧
    (syncH s).ustep = s.ustep ∧
    (syncH s).isrState = s.isrState ∧
    (syncH s).wstep = s.wstep ∧
    (syncH s).irqEn = s.irqEn ∧
    (syncH s).lastActivity = s.lastActivity ∧
    (syncH s).bannerSent = s.bannerSent ∧
    (syncH s).led = s.led ∧
    (syncH s).baudCfg = s.baudCfg ∧
    (syncH s).scratch = s.scratch ∧
    (syncH s).nowMs = s.nowMs ∧
    (syncH s).uart = s.uart ∧
    (syncH s).usb = s.usb ∧
    (syncH s).strobes = s.strobes ∧
    (syncH s).ports = s.ports ∧
    (syncH s).env = s.env :=
  ⟨rfl, rfl, rfl, rfl, rfl, rfl, rfl, rfl, rfl, rfl, rfl, rfl, rfl, rfl, rfl, rfl, rfl⟩

/-- Fields after: SyncT changes `tail_w` only (R70). -/
@[simp] theorem syncT_fields (s : State) :
    (syncT s).ring = { s.ring with tailW := s.ring.tail } ∧
    (syncT s).schedStep = s.schedStep ∧
    (syncT s).ustep = s.ustep ∧
    (syncT s).isrState = s.isrState ∧
    (syncT s).wstep = s.wstep ∧
    (syncT s).irqEn = s.irqEn ∧
    (syncT s).lastActivity = s.lastActivity ∧
    (syncT s).bannerSent = s.bannerSent ∧
    (syncT s).led = s.led ∧
    (syncT s).baudCfg = s.baudCfg ∧
    (syncT s).scratch = s.scratch ∧
    (syncT s).nowMs = s.nowMs ∧
    (syncT s).uart = s.uart ∧
    (syncT s).usb = s.usb ∧
    (syncT s).strobes = s.strobes ∧
    (syncT s).ports = s.ports ∧
    (syncT s).env = s.env :=
  ⟨rfl, rfl, rfl, rfl, rfl, rfl, rfl, rfl, rfl, rfl, rfl, rfl, rfl, rfl, rfl, rfl, rfl⟩

/-- Fields after: under `SYNC = lagged` a write of `head` changes `head` only. -/
@[simp] theorem setHead_fields (s : State) (x : Index) :
    (setHead s x).ring = { s.ring with head := x } ∧
    (setHead s x).schedStep = s.schedStep ∧
    (setHead s x).ustep = s.ustep ∧
    (setHead s x).isrState = s.isrState ∧
    (setHead s x).wstep = s.wstep ∧
    (setHead s x).irqEn = s.irqEn ∧
    (setHead s x).lastActivity = s.lastActivity ∧
    (setHead s x).bannerSent = s.bannerSent ∧
    (setHead s x).led = s.led ∧
    (setHead s x).baudCfg = s.baudCfg ∧
    (setHead s x).scratch = s.scratch ∧
    (setHead s x).nowMs = s.nowMs ∧
    (setHead s x).uart = s.uart ∧
    (setHead s x).usb = s.usb ∧
    (setHead s x).strobes = s.strobes ∧
    (setHead s x).ports = s.ports ∧
    (setHead s x).env = s.env :=
  ⟨rfl, rfl, rfl, rfl, rfl, rfl, rfl, rfl, rfl, rfl, rfl, rfl, rfl, rfl, rfl, rfl, rfl⟩

/-- Fields after: under `SYNC = lagged` a write of `tail` changes `tail` only. -/
@[simp] theorem setTail_fields (s : State) (x : Index) :
    (setTail s x).ring = { s.ring with tail := x } ∧
    (setTail s x).schedStep = s.schedStep ∧
    (setTail s x).ustep = s.ustep ∧
    (setTail s x).isrState = s.isrState ∧
    (setTail s x).wstep = s.wstep ∧
    (setTail s x).irqEn = s.irqEn ∧
    (setTail s x).lastActivity = s.lastActivity ∧
    (setTail s x).bannerSent = s.bannerSent ∧
    (setTail s x).led = s.led ∧
    (setTail s x).baudCfg = s.baudCfg ∧
    (setTail s x).scratch = s.scratch ∧
    (setTail s x).nowMs = s.nowMs ∧
    (setTail s x).uart = s.uart ∧
    (setTail s x).usb = s.usb ∧
    (setTail s x).strobes = s.strobes ∧
    (setTail s x).ports = s.ports ∧
    (setTail s x).env = s.env :=
  ⟨rfl, rfl, rfl, rfl, rfl, rfl, rfl, rfl, rfl, rfl, rfl, rfl, rfl, rfl, rfl, rfl, rfl⟩

/-- Fields after: Time changes `now_ms` only (R236). -/
@[simp] theorem tick_fields (s : State) :
    (tick s).ring = s.ring ∧
    (tick s).schedStep = s.schedStep ∧
    (tick s).ustep = s.ustep ∧
    (tick s).isrState = s.isrState ∧
    (tick s).wstep = s.wstep ∧
    (tick s).irqEn = s.irqEn ∧
    (tick s).lastActivity = s.lastActivity ∧
    (tick s).bannerSent = s.bannerSent ∧
    (tick s).led = s.led ∧
    (tick s).baudCfg = s.baudCfg ∧
    (tick s).scratch = s.scratch ∧
    (tick s).nowMs = s.nowMs + 1#Config.TW ∧
    (tick s).uart = s.uart ∧
    (tick s).usb = s.usb ∧
    (tick s).strobes = s.strobes ∧
    (tick s).ports = s.ports ∧
    (tick s).env = s.env :=
  ⟨rfl, rfl, rfl, rfl, rfl, rfl, rfl, rfl, rfl, rfl, rfl, rfl, rfl, rfl, rfl, rfl, rfl⟩

/-- Fields after: a touch changes `last_activity` only (R131). -/
@[simp] theorem touch_fields (s : State) :
    (touch s).ring = s.ring ∧
    (touch s).schedStep = s.schedStep ∧
    (touch s).ustep = s.ustep ∧
    (touch s).isrState = s.isrState ∧
    (touch s).wstep = s.wstep ∧
    (touch s).irqEn = s.irqEn ∧
    (touch s).lastActivity = s.nowMs ∧
    (touch s).bannerSent = s.bannerSent ∧
    (touch s).led = s.led ∧
    (touch s).baudCfg = s.baudCfg ∧
    (touch s).scratch = s.scratch ∧
    (touch s).nowMs = s.nowMs ∧
    (touch s).uart = s.uart ∧
    (touch s).usb = s.usb ∧
    (touch s).strobes = s.strobes ∧
    (touch s).ports = s.ports ∧
    (touch s).env = s.env :=
  ⟨rfl, rfl, rfl, rfl, rfl, rfl, rfl, rfl, rfl, rfl, rfl, rfl, rfl, rfl, rfl, rfl, rfl⟩

/-- Fields after: a word on the W port. -/
@[simp] theorem presentW_fields (s : State) (w : Word) :
    (presentW s w).ring = s.ring ∧
    (presentW s w).schedStep = s.schedStep ∧
    (presentW s w).ustep = s.ustep ∧
    (presentW s w).isrState = s.isrState ∧
    (presentW s w).wstep = s.wstep ∧
    (presentW s w).irqEn = s.irqEn ∧
    (presentW s w).lastActivity = s.lastActivity ∧
    (presentW s w).bannerSent = s.bannerSent ∧
    (presentW s w).led = s.led ∧
    (presentW s w).baudCfg = s.baudCfg ∧
    (presentW s w).scratch = s.scratch ∧
    (presentW s w).nowMs = s.nowMs ∧
    (presentW s w).uart = s.uart ∧
    (presentW s w).usb = s.usb ∧
    (presentW s w).strobes = s.strobes ∧
    (presentW s w).ports = { s.ports with wCmd := w, wCmdValid := true } ∧
    (presentW s w).env = s.env :=
  ⟨rfl, rfl, rfl, rfl, rfl, rfl, rfl, rfl, rfl, rfl, rfl, rfl, rfl, rfl, rfl, rfl, rfl⟩

/-- Fields after: a word on the R port. -/
@[simp] theorem presentR_fields (s : State) (w : Word) :
    (presentR s w).ring = s.ring ∧
    (presentR s w).schedStep = s.schedStep ∧
    (presentR s w).ustep = s.ustep ∧
    (presentR s w).isrState = s.isrState ∧
    (presentR s w).wstep = s.wstep ∧
    (presentR s w).irqEn = s.irqEn ∧
    (presentR s w).lastActivity = s.lastActivity ∧
    (presentR s w).bannerSent = s.bannerSent ∧
    (presentR s w).led = s.led ∧
    (presentR s w).baudCfg = s.baudCfg ∧
    (presentR s w).scratch = s.scratch ∧
    (presentR s w).nowMs = s.nowMs ∧
    (presentR s w).uart = s.uart ∧
    (presentR s w).usb = s.usb ∧
    (presentR s w).strobes = s.strobes ∧
    (presentR s w).ports = { s.ports with rCmd := w, rCmdValid := true } ∧
    (presentR s w).env = s.env :=
  ⟨rfl, rfl, rfl, rfl, rfl, rfl, rfl, rfl, rfl, rfl, rfl, rfl, rfl, rfl, rfl, rfl, rfl⟩

/-- Fields after: a response on the W port. -/
@[simp] theorem respondW_fields (s : State) (r : Response) :
    (respondW s r).ring = s.ring ∧
    (respondW s r).schedStep = s.schedStep ∧
    (respondW s r).ustep = s.ustep ∧
    (respondW s r).isrState = s.isrState ∧
    (respondW s r).wstep = s.wstep ∧
    (respondW s r).irqEn = s.irqEn ∧
    (respondW s r).lastActivity = s.lastActivity ∧
    (respondW s r).bannerSent = s.bannerSent ∧
    (respondW s r).led = s.led ∧
    (respondW s r).baudCfg = s.baudCfg ∧
    (respondW s r).scratch = s.scratch ∧
    (respondW s r).nowMs = s.nowMs ∧
    (respondW s r).uart = s.uart ∧
    (respondW s r).usb = s.usb ∧
    (respondW s r).strobes = s.strobes ∧
    (respondW s r).ports = { s.ports with wResp := responseWord r } ∧
    (respondW s r).env = s.env :=
  ⟨rfl, rfl, rfl, rfl, rfl, rfl, rfl, rfl, rfl, rfl, rfl, rfl, rfl, rfl, rfl, rfl, rfl⟩

/-- Fields after: a response on the R port. -/
@[simp] theorem respondR_fields (s : State) (r : Response) :
    (respondR s r).ring = s.ring ∧
    (respondR s r).schedStep = s.schedStep ∧
    (respondR s r).ustep = s.ustep ∧
    (respondR s r).isrState = s.isrState ∧
    (respondR s r).wstep = s.wstep ∧
    (respondR s r).irqEn = s.irqEn ∧
    (respondR s r).lastActivity = s.lastActivity ∧
    (respondR s r).bannerSent = s.bannerSent ∧
    (respondR s r).led = s.led ∧
    (respondR s r).baudCfg = s.baudCfg ∧
    (respondR s r).scratch = s.scratch ∧
    (respondR s r).nowMs = s.nowMs ∧
    (respondR s r).uart = s.uart ∧
    (respondR s r).usb = s.usb ∧
    (respondR s r).strobes = s.strobes ∧
    (respondR s r).ports = { s.ports with rResp := responseWord r } ∧
    (respondR s r).env = s.env :=
  ⟨rfl, rfl, rfl, rfl, rfl, rfl, rfl, rfl, rfl, rfl, rfl, rfl, rfl, rfl, rfl, rfl, rfl⟩

/-- Fields after: the end of an operation moves the R sequencer only (R201). -/
@[simp] theorem finishStep_fields (k : BitVec 3) (s : State) :
    (finishStep k s).ring = s.ring ∧
    (finishStep k s).schedStep = (if s.schedStep = k then nextSchedStep k else s.schedStep) ∧
    (finishStep k s).ustep = .idle ∧
    (finishStep k s).isrState = s.isrState ∧
    (finishStep k s).wstep = s.wstep ∧
    (finishStep k s).irqEn = s.irqEn ∧
    (finishStep k s).lastActivity = s.lastActivity ∧
    (finishStep k s).bannerSent = s.bannerSent ∧
    (finishStep k s).led = s.led ∧
    (finishStep k s).baudCfg = s.baudCfg ∧
    (finishStep k s).scratch = s.scratch ∧
    (finishStep k s).nowMs = s.nowMs ∧
    (finishStep k s).uart = s.uart ∧
    (finishStep k s).usb = s.usb ∧
    (finishStep k s).strobes = s.strobes ∧
    (finishStep k s).ports = s.ports ∧
    (finishStep k s).env = s.env :=
  ⟨rfl, rfl, rfl, rfl, rfl, rfl, rfl, rfl, rfl, rfl, rfl, rfl, rfl, rfl, rfl, rfl, rfl⟩

/-- Fields after: the end of an operation with its response. -/
@[simp] theorem finishR_fields (k : BitVec 3) (s : State) :
    (finishR k s).ring = s.ring ∧
    (finishR k s).schedStep = (if s.schedStep = k then nextSchedStep k else s.schedStep) ∧
    (finishR k s).ustep = .idle ∧
    (finishR k s).isrState = s.isrState ∧
    (finishR k s).wstep = s.wstep ∧
    (finishR k s).irqEn = s.irqEn ∧
    (finishR k s).lastActivity = s.lastActivity ∧
    (finishR k s).bannerSent = s.bannerSent ∧
    (finishR k s).led = s.led ∧
    (finishR k s).baudCfg = s.baudCfg ∧
    (finishR k s).scratch = s.scratch ∧
    (finishR k s).nowMs = s.nowMs ∧
    (finishR k s).uart = s.uart ∧
    (finishR k s).usb = s.usb ∧
    (finishR k s).strobes = s.strobes ∧
    (finishR k s).ports = { s.ports with rResp := responseWord (plainResponse true) } ∧
    (finishR k s).env = s.env :=
  ⟨rfl, rfl, rfl, rfl, rfl, rfl, rfl, rfl, rfl, rfl, rfl, rfl, rfl, rfl, rfl, rfl, rfl⟩

/-- Fields after: `uart.read_byte()`. -/
@[simp] theorem uartPop_fields (s : State) (b : Byte) (rest : List Byte) :
    (uartPop s b rest).ring = s.ring ∧
    (uartPop s b rest).schedStep = s.schedStep ∧
    (uartPop s b rest).ustep = s.ustep ∧
    (uartPop s b rest).isrState = s.isrState ∧
    (uartPop s b rest).wstep = s.wstep ∧
    (uartPop s b rest).irqEn = s.irqEn ∧
    (uartPop s b rest).lastActivity = s.lastActivity ∧
    (uartPop s b rest).bannerSent = s.bannerSent ∧
    (uartPop s b rest).led = s.led ∧
    (uartPop s b rest).baudCfg = s.baudCfg ∧
    (uartPop s b rest).scratch = { s.scratch with rxd := b } ∧
    (uartPop s b rest).nowMs = s.nowMs ∧
    (uartPop s b rest).uart = { s.uart with rx := rest } ∧
    (uartPop s b rest).usb = s.usb ∧
    (uartPop s b rest).strobes = { s.strobes with uartRxPop := true } ∧
    (uartPop s b rest).ports = s.ports ∧
    (uartPop s b rest).env = s.env :=
  ⟨rfl, rfl, rfl, rfl, rfl, rfl, rfl, rfl, rfl, rfl, rfl, rfl, rfl, rfl, rfl, rfl, rfl⟩

/-- Fields after: `uart.init`. -/
@[simp] theorem uartInit_fields (s : State) (r : Baud) :
    (uartInit s r).ring = s.ring ∧
    (uartInit s r).schedStep = s.schedStep ∧
    (uartInit s r).ustep = s.ustep ∧
    (uartInit s r).isrState = s.isrState ∧
    (uartInit s r).wstep = s.wstep ∧
    (uartInit s r).irqEn = s.irqEn ∧
    (uartInit s r).lastActivity = s.lastActivity ∧
    (uartInit s r).bannerSent = s.bannerSent ∧
    (uartInit s r).led = s.led ∧
    (uartInit s r).baudCfg = s.baudCfg ∧
    (uartInit s r).scratch = s.scratch ∧
    (uartInit s r).nowMs = s.nowMs ∧
    (uartInit s r).uart = { s.uart with rate := r, frame := some { dataBits := Config.DATA_BITS, stopBits := Config.STOP_BITS, parity := .none } } ∧
    (uartInit s r).usb = s.usb ∧
    (uartInit s r).strobes = { s.strobes with uartInit := some r } ∧
    (uartInit s r).ports = s.ports ∧
    (uartInit s r).env = s.env :=
  ⟨rfl, rfl, rfl, rfl, rfl, rfl, rfl, rfl, rfl, rfl, rfl, rfl, rfl, rfl, rfl, rfl, rfl⟩

/-- Fields after: `uart.fifo_enable()`. -/
@[simp] theorem uartFifoEnable_fields (s : State) :
    (uartFifoEnable s).ring = s.ring ∧
    (uartFifoEnable s).schedStep = s.schedStep ∧
    (uartFifoEnable s).ustep = s.ustep ∧
    (uartFifoEnable s).isrState = s.isrState ∧
    (uartFifoEnable s).wstep = s.wstep ∧
    (uartFifoEnable s).irqEn = s.irqEn ∧
    (uartFifoEnable s).lastActivity = s.lastActivity ∧
    (uartFifoEnable s).bannerSent = s.bannerSent ∧
    (uartFifoEnable s).led = s.led ∧
    (uartFifoEnable s).baudCfg = s.baudCfg ∧
    (uartFifoEnable s).scratch = s.scratch ∧
    (uartFifoEnable s).nowMs = s.nowMs ∧
    (uartFifoEnable s).uart = { s.uart with fifoOn := true } ∧
    (uartFifoEnable s).usb = s.usb ∧
    (uartFifoEnable s).strobes = { s.strobes with uartFifoEn := true } ∧
    (uartFifoEnable s).ports = s.ports ∧
    (uartFifoEnable s).env = s.env :=
  ⟨rfl, rfl, rfl, rfl, rfl, rfl, rfl, rfl, rfl, rfl, rfl, rfl, rfl, rfl, rfl, rfl, rfl⟩

/-- Fields after: `uart.set_baud(r)`. -/
@[simp] theorem uartSetBaud_fields (s : State) (r : Baud) :
    (uartSetBaud s r).ring = s.ring ∧
    (uartSetBaud s r).schedStep = s.schedStep ∧
    (uartSetBaud s r).ustep = s.ustep ∧
    (uartSetBaud s r).isrState = s.isrState ∧
    (uartSetBaud s r).wstep = s.wstep ∧
    (uartSetBaud s r).irqEn = s.irqEn ∧
    (uartSetBaud s r).lastActivity = s.lastActivity ∧
    (uartSetBaud s r).bannerSent = s.bannerSent ∧
    (uartSetBaud s r).led = s.led ∧
    (uartSetBaud s r).baudCfg = s.baudCfg ∧
    (uartSetBaud s r).scratch = s.scratch ∧
    (uartSetBaud s r).nowMs = s.nowMs ∧
    (uartSetBaud s r).uart = { s.uart with rate := r } ∧
    (uartSetBaud s r).usb = s.usb ∧
    (uartSetBaud s r).strobes = { s.strobes with uartSetBaud := some r } ∧
    (uartSetBaud s r).ports = s.ports ∧
    (uartSetBaud s r).env = s.env :=
  ⟨rfl, rfl, rfl, rfl, rfl, rfl, rfl, rfl, rfl, rfl, rfl, rfl, rfl, rfl, rfl, rfl, rfl⟩

/-- Fields after: `uart_tx_ready` moves. -/
@[simp] theorem setTxReady_fields (s : State) (ready : Bool) :
    (setTxReady s ready).ring = s.ring ∧
    (setTxReady s ready).schedStep = s.schedStep ∧
    (setTxReady s ready).ustep = s.ustep ∧
    (setTxReady s ready).isrState = s.isrState ∧
    (setTxReady s ready).wstep = s.wstep ∧
    (setTxReady s ready).irqEn = s.irqEn ∧
    (setTxReady s ready).lastActivity = s.lastActivity ∧
    (setTxReady s ready).bannerSent = s.bannerSent ∧
    (setTxReady s ready).led = s.led ∧
    (setTxReady s ready).baudCfg = s.baudCfg ∧
    (setTxReady s ready).scratch = s.scratch ∧
    (setTxReady s ready).nowMs = s.nowMs ∧
    (setTxReady s ready).uart = { s.uart with txReady := ready } ∧
    (setTxReady s ready).usb = s.usb ∧
    (setTxReady s ready).strobes = s.strobes ∧
    (setTxReady s ready).ports = s.ports ∧
    (setTxReady s ready).env = s.env :=
  ⟨rfl, rfl, rfl, rfl, rfl, rfl, rfl, rfl, rfl, rfl, rfl, rfl, rfl, rfl, rfl, rfl, rfl⟩

/-- Fields after: a decided turn. -/
@[simp] theorem decideTurn_fields (t : Turn) (s : State) :
    (decideTurn t s).ring = s.ring ∧
    (decideTurn t s).schedStep = s.schedStep ∧
    (decideTurn t s).ustep = s.ustep ∧
    (decideTurn t s).isrState = s.isrState ∧
    (decideTurn t s).wstep = s.wstep ∧
    (decideTurn t s).irqEn = s.irqEn ∧
    (decideTurn t s).lastActivity = s.lastActivity ∧
    (decideTurn t s).bannerSent = s.bannerSent ∧
    (decideTurn t s).led = s.led ∧
    (decideTurn t s).baudCfg = s.baudCfg ∧
    (decideTurn t s).scratch = s.scratch ∧
    (decideTurn t s).nowMs = s.nowMs ∧
    (decideTurn t s).uart = s.uart ∧
    (decideTurn t s).usb = s.usb ∧
    (decideTurn t s).strobes = s.strobes ∧
    (decideTurn t s).ports = s.ports ∧
    (decideTurn t s).env = { s.env with turns := t :: s.env.turns } :=
  ⟨rfl, rfl, rfl, rfl, rfl, rfl, rfl, rfl, rfl, rfl, rfl, rfl, rfl, rfl, rfl, rfl, rfl⟩

/-- Fields after: one accepted byte of the UART write. -/
@[simp] theorem uartPush_fields (s : State) (b : Byte) :
    (uartPush s b).ring = s.ring ∧
    (uartPush s b).schedStep = s.schedStep ∧
    (uartPush s b).ustep = s.ustep ∧
    (uartPush s b).isrState = s.isrState ∧
    (uartPush s b).wstep = s.wstep ∧
    (uartPush s b).irqEn = s.irqEn ∧
    (uartPush s b).lastActivity = s.lastActivity ∧
    (uartPush s b).bannerSent = s.bannerSent ∧
    (uartPush s b).led = s.led ∧
    (uartPush s b).baudCfg = s.baudCfg ∧
    (uartPush s b).scratch = s.scratch ∧
    (uartPush s b).nowMs = s.nowMs ∧
    (uartPush s b).uart = { s.uart with tx := s.uart.tx ++ [b] } ∧
    (uartPush s b).usb = s.usb ∧
    (uartPush s b).strobes = { s.strobes with uartTxPush := some b } ∧
    (uartPush s b).ports = s.ports ∧
    (uartPush s b).env = s.env :=
  ⟨rfl, rfl, rfl, rfl, rfl, rfl, rfl, rfl, rfl, rfl, rfl, rfl, rfl, rfl, rfl, rfl, rfl⟩

/-- Fields after: `usb.write`. -/
@[simp] theorem usbWrite_fields (s : State) (l : List Byte) :
    (usbWrite s l).ring = s.ring ∧
    (usbWrite s l).schedStep = s.schedStep ∧
    (usbWrite s l).ustep = s.ustep ∧
    (usbWrite s l).isrState = s.isrState ∧
    (usbWrite s l).wstep = s.wstep ∧
    (usbWrite s l).irqEn = s.irqEn ∧
    (usbWrite s l).lastActivity = s.lastActivity ∧
    (usbWrite s l).bannerSent = s.bannerSent ∧
    (usbWrite s l).led = s.led ∧
    (usbWrite s l).baudCfg = s.baudCfg ∧
    (usbWrite s l).scratch = s.scratch ∧
    (usbWrite s l).nowMs = s.nowMs ∧
    (usbWrite s l).uart = s.uart ∧
    (usbWrite s l).usb = { s.usb with tx := s.usb.tx ++ (l.take (usbAccepted s l.length)).map .byte, space := s.usb.space - usbAccepted s l.length } ∧
    (usbWrite s l).strobes = { s.strobes with usbWr := some l } ∧
    (usbWrite s l).ports = s.ports ∧
    (usbWrite s l).env = s.env :=
  ⟨rfl, rfl, rfl, rfl, rfl, rfl, rfl, rfl, rfl, rfl, rfl, rfl, rfl, rfl, rfl, rfl, rfl⟩

/-- Fields after: `usb.flush()`. -/
@[simp] theorem usbFlush_fields (s : State) :
    (usbFlush s).ring = s.ring ∧
    (usbFlush s).schedStep = s.schedStep ∧
    (usbFlush s).ustep = s.ustep ∧
    (usbFlush s).isrState = s.isrState ∧
    (usbFlush s).wstep = s.wstep ∧
    (usbFlush s).irqEn = s.irqEn ∧
    (usbFlush s).lastActivity = s.lastActivity ∧
    (usbFlush s).bannerSent = s.bannerSent ∧
    (usbFlush s).led = s.led ∧
    (usbFlush s).baudCfg = s.baudCfg ∧
    (usbFlush s).scratch = s.scratch ∧
    (usbFlush s).nowMs = s.nowMs ∧
    (usbFlush s).uart = s.uart ∧
    (usbFlush s).usb = { s.usb with tx := s.usb.tx ++ [.flush] } ∧
    (usbFlush s).strobes = { s.strobes with usbFlush := true } ∧
    (usbFlush s).ports = s.ports ∧
    (usbFlush s).env = s.env :=
  ⟨rfl, rfl, rfl, rfl, rfl, rfl, rfl, rfl, rfl, rfl, rfl, rfl, rfl, rfl, rfl, rfl, rfl⟩

/-- Fields after: `usb.read`. -/
@[simp] theorem usbRead_fields (s : State) :
    (usbRead s).ring = s.ring ∧
    (usbRead s).schedStep = s.schedStep ∧
    (usbRead s).ustep = s.ustep ∧
    (usbRead s).isrState = s.isrState ∧
    (usbRead s).wstep = s.wstep ∧
    (usbRead s).irqEn = s.irqEn ∧
    (usbRead s).lastActivity = s.lastActivity ∧
    (usbRead s).bannerSent = s.bannerSent ∧
    (usbRead s).led = s.led ∧
    (usbRead s).baudCfg = s.baudCfg ∧
    (usbRead s).scratch = { s.scratch with inBuf := s.usb.rx.take Config.CHUNK ++ s.scratch.inBuf.drop (s.usb.rx.take Config.CHUNK).length, inN := BitVec.ofNat 7 (s.usb.rx.take Config.CHUNK).length } ∧
    (usbRead s).nowMs = s.nowMs ∧
    (usbRead s).uart = s.uart ∧
    (usbRead s).usb = { s.usb with rx := s.usb.rx.drop Config.CHUNK } ∧
    (usbRead s).strobes = { s.strobes with usbRd := true } ∧
    (usbRead s).ports = s.ports ∧
    (usbRead s).env = s.env :=
  ⟨rfl, rfl, rfl, rfl, rfl, rfl, rfl, rfl, rfl, rfl, rfl, rfl, rfl, rfl, rfl, rfl, rfl⟩

/-- Fields after: `usb.service()`. -/
@[simp] theorem usbServiceCall_fields (s : State) :
    (usbServiceCall s).ring = s.ring ∧
    (usbServiceCall s).schedStep = s.schedStep ∧
    (usbServiceCall s).ustep = s.ustep ∧
    (usbServiceCall s).isrState = s.isrState ∧
    (usbServiceCall s).wstep = s.wstep ∧
    (usbServiceCall s).irqEn = s.irqEn ∧
    (usbServiceCall s).lastActivity = s.lastActivity ∧
    (usbServiceCall s).bannerSent = s.bannerSent ∧
    (usbServiceCall s).led = s.led ∧
    (usbServiceCall s).baudCfg = s.baudCfg ∧
    (usbServiceCall s).scratch = s.scratch ∧
    (usbServiceCall s).nowMs = s.nowMs ∧
    (usbServiceCall s).uart = s.uart ∧
    (usbServiceCall s).usb = presentRequest (hostMoves s.usb (nextHostAct s)) ∧
    (usbServiceCall s).strobes = { s.strobes with usbService := true } ∧
    (usbServiceCall s).ports = s.ports ∧
    (usbServiceCall s).env = dropHostAct s.env :=
  ⟨rfl, rfl, rfl, rfl, rfl, rfl, rfl, rfl, rfl, rfl, rfl, rfl, rfl, rfl, rfl, rfl, rfl⟩

/-- Fields after: the pulse of `lc_ack`. -/
@[simp] theorem lcAckPulse_fields (s : State) :
    (lcAckPulse s).ring = s.ring ∧
    (lcAckPulse s).schedStep = s.schedStep ∧
    (lcAckPulse s).ustep = s.ustep ∧
    (lcAckPulse s).isrState = s.isrState ∧
    (lcAckPulse s).wstep = s.wstep ∧
    (lcAckPulse s).irqEn = s.irqEn ∧
    (lcAckPulse s).lastActivity = s.lastActivity ∧
    (lcAckPulse s).bannerSent = s.bannerSent ∧
    (lcAckPulse s).led = s.led ∧
    (lcAckPulse s).baudCfg = s.baudCfg ∧
    (lcAckPulse s).scratch = s.scratch ∧
    (lcAckPulse s).nowMs = s.nowMs ∧
    (lcAckPulse s).uart = s.uart ∧
    (lcAckPulse s).usb = { s.usb with lcValid := false } ∧
    (lcAckPulse s).strobes = { s.strobes with lcAck := true } ∧
    (lcAckPulse s).ports = s.ports ∧
    (lcAckPulse s).env = s.env :=
  ⟨rfl, rfl, rfl, rfl, rfl, rfl, rfl, rfl, rfl, rfl, rfl, rfl, rfl, rfl, rfl, rfl, rfl⟩

/-- Fields after: the draw of a free `lc_baud`. -/
@[simp] theorem dropIdleBaud_fields (s : State) :
    (dropIdleBaud s).ring = s.ring ∧
    (dropIdleBaud s).schedStep = s.schedStep ∧
    (dropIdleBaud s).ustep = s.ustep ∧
    (dropIdleBaud s).isrState = s.isrState ∧
    (dropIdleBaud s).wstep = s.wstep ∧
    (dropIdleBaud s).irqEn = s.irqEn ∧
    (dropIdleBaud s).lastActivity = s.lastActivity ∧
    (dropIdleBaud s).bannerSent = s.bannerSent ∧
    (dropIdleBaud s).led = s.led ∧
    (dropIdleBaud s).baudCfg = s.baudCfg ∧
    (dropIdleBaud s).scratch = s.scratch ∧
    (dropIdleBaud s).nowMs = s.nowMs ∧
    (dropIdleBaud s).uart = s.uart ∧
    (dropIdleBaud s).usb = s.usb ∧
    (dropIdleBaud s).strobes = s.strobes ∧
    (dropIdleBaud s).ports = s.ports ∧
    (dropIdleBaud s).env = { s.env with draws := s.env.draws + (if s.usb.lcValid then 0 else 1) } :=
  ⟨rfl, rfl, rfl, rfl, rfl, rfl, rfl, rfl, rfl, rfl, rfl, rfl, rfl, rfl, rfl, rfl, rfl⟩

/-- Fields after: the entry of the handler changes `isr_state` only (R224). -/
@[simp] theorem enterHandler_fields (s : State) :
    (enterHandler s).ring = s.ring ∧
    (enterHandler s).schedStep = s.schedStep ∧
    (enterHandler s).ustep = s.ustep ∧
    (enterHandler s).isrState = .drain ∧
    (enterHandler s).wstep = s.wstep ∧
    (enterHandler s).irqEn = s.irqEn ∧
    (enterHandler s).lastActivity = s.lastActivity ∧
    (enterHandler s).bannerSent = s.bannerSent ∧
    (enterHandler s).led = s.led ∧
    (enterHandler s).baudCfg = s.baudCfg ∧
    (enterHandler s).scratch = s.scratch ∧
    (enterHandler s).nowMs = s.nowMs ∧
    (enterHandler s).uart = s.uart ∧
    (enterHandler s).usb = s.usb ∧
    (enterHandler s).strobes = s.strobes ∧
    (enterHandler s).ports = s.ports ∧
    (enterHandler s).env = s.env :=
  ⟨rfl, rfl, rfl, rfl, rfl, rfl, rfl, rfl, rfl, rfl, rfl, rfl, rfl, rfl, rfl, rfl, rfl⟩

/-- Fields after: the return of the handler changes `isr_state` only (R226). -/
@[simp] theorem leaveHandler_fields (s : State) :
    (leaveHandler s).ring = s.ring ∧
    (leaveHandler s).schedStep = s.schedStep ∧
    (leaveHandler s).ustep = s.ustep ∧
    (leaveHandler s).isrState = .idle ∧
    (leaveHandler s).wstep = s.wstep ∧
    (leaveHandler s).irqEn = s.irqEn ∧
    (leaveHandler s).lastActivity = s.lastActivity ∧
    (leaveHandler s).bannerSent = s.bannerSent ∧
    (leaveHandler s).led = s.led ∧
    (leaveHandler s).baudCfg = s.baudCfg ∧
    (leaveHandler s).scratch = s.scratch ∧
    (leaveHandler s).nowMs = s.nowMs ∧
    (leaveHandler s).uart = s.uart ∧
    (leaveHandler s).usb = s.usb ∧
    (leaveHandler s).strobes = s.strobes ∧
    (leaveHandler s).ports = s.ports ∧
    (leaveHandler s).env = s.env :=
  ⟨rfl, rfl, rfl, rfl, rfl, rfl, rfl, rfl, rfl, rfl, rfl, rfl, rfl, rfl, rfl, rfl, rfl⟩

/-- Fields after: the beginning of a step. -/
@[simp] theorem beginStep_fields (s : State) :
    (beginStep s).ring = s.ring ∧
    (beginStep s).schedStep = s.schedStep ∧
    (beginStep s).ustep = s.ustep ∧
    (beginStep s).isrState = s.isrState ∧
    (beginStep s).wstep = s.wstep ∧
    (beginStep s).irqEn = s.irqEn ∧
    (beginStep s).lastActivity = s.lastActivity ∧
    (beginStep s).bannerSent = s.bannerSent ∧
    (beginStep s).led = s.led ∧
    (beginStep s).baudCfg = s.baudCfg ∧
    (beginStep s).scratch = s.scratch ∧
    (beginStep s).nowMs = s.nowMs ∧
    (beginStep s).uart = s.uart ∧
    (beginStep s).usb = s.usb ∧
    (beginStep s).strobes = Strobes.quiet ∧
    (beginStep s).ports = { s.ports with wCmd := 0#16, wCmdValid := false, rCmd := 0#16, rCmdValid := false } ∧
    (beginStep s).env = { s.env with turns := s.env.turns.tail, draws := s.env.draws + (if s.env.turns.isEmpty then 1 else 0) } :=
  ⟨rfl, rfl, rfl, rfl, rfl, rfl, rfl, rfl, rfl, rfl, rfl, rfl, rfl, rfl, rfl, rfl, rfl⟩

end Sys2Proof.Machine
end

