-- ==== Sys2Proof/Laws/Ops.lean ====
section
/-! SUPPORT. One lemma per shared operation that says everything it can do, so that proofs cite it instead of unfolding
the operation. -/

namespace Sys2Proof.Machine

/-! The parameters as numbers, for arithmetic. -/

@[simp] theorem C_eq : Config.C = 4096 := rfl
@[simp] theorem CHUNK_eq : Config.CHUNK = 64 := rfl
@[simp] theorem BAUD_MAX_toNat : Config.BAUD_MAX.toNat = 921600 := rfl
@[simp] theorem BAUD_DEFAULT_toNat : Config.BAUD_DEFAULT.toNat = 115200 := rfl

/-- PUT's step: refused by a full buffer, or stored (R111). -/
theorem putOp_cases (b : Byte) (s : State) :
    (s.ring.head + 1#12 = s.ring.tailW ∧ putOp b s = (plainResponse false, s)) ∨
    (s.ring.head + 1#12 ≠ s.ring.tailW ∧
      putOp b s = (plainResponse true,
        { s with ring := { s.ring with
            head := s.ring.head + 1#12
            buf := Memory.store s.ring.buf s.ring.head.toNat b } })) := by
  by_cases h : s.ring.head + 1#12 = s.ring.tailW
  · exact .inl ⟨h, by simp [putOp, fullW, nextIndex, h]⟩
  · exact .inr ⟨h, by simp [putOp, fullW, nextIndex, h, setHead, Config.SYNC, memWrite]⟩

/-- GET's step: nothing from an empty buffer, or the byte at `tail` (R113). -/
theorem getOp_cases (s : State) :
    (s.ring.headR = s.ring.tail ∧ getOp s = (plainResponse true, s)) ∨
    (s.ring.headR ≠ s.ring.tail ∧
      getOp s = (byteResponse (memRead s s.ring.tail),
        { s with ring := { s.ring with tail := s.ring.tail + 1#12 } })) := by
  by_cases h : s.ring.headR = s.ring.tail
  · exact .inl ⟨h, by simp [getOp, emptyR, h]⟩
  · exact .inr ⟨h, by simp [getOp, emptyR, h, setTail, Config.SYNC, nextIndex]⟩

/-- ADV's step: nothing on an empty buffer, or one position (R115). -/
theorem advOp_cases (s : State) :
    (s.ring.headR = s.ring.tail ∧ advOp s = (plainResponse false, s)) ∨
    (s.ring.headR ≠ s.ring.tail ∧
      advOp s = (plainResponse true, { s with ring := { s.ring with tail := s.ring.tail + 1#12 } })) := by
  by_cases h : s.ring.headR = s.ring.tail
  · exact .inl ⟨h, by simp [advOp, emptyR, h]⟩
  · exact .inr ⟨h, by simp [advOp, emptyR, h, setTail, Config.SYNC, nextIndex]⟩

/-- PEEK's answer: a byte when the offset is below the visible count, nothing otherwise (R114). -/
theorem peekOp_cases (i : BitVec 6) (s : State) :
    (i.toNat < (s.ring.headR - s.ring.tail).toNat ∧
      peekOp i s = byteResponse (memRead s (s.ring.tail + i.zeroExtend 12))) ∨
    ((s.ring.headR - s.ring.tail).toNat ≤ i.toNat ∧ peekOp i s = plainResponse true) := by
  by_cases h : i.toNat < (s.ring.headR - s.ring.tail).toNat
  · exact .inl ⟨h, if_pos h⟩
  · exact .inr ⟨Nat.le_of_not_lt h, if_neg h⟩

/-- EnvA's step: the byte joins an open FIFO, or leaves no trace (R241). -/
theorem uartDeliver_cases (s : State) (b : Byte) :
    (s.uart.frame.isSome = true ∧ s.uart.rx.length < Config.UART_FIFO_DEPTH ∧
      uartDeliver s b = { s with uart := { s.uart with rx := s.uart.rx ++ [b] } }) ∨
    (¬(s.uart.frame.isSome = true ∧ s.uart.rx.length < Config.UART_FIFO_DEPTH) ∧ uartDeliver s b = s) := by
  by_cases h : s.uart.frame.isSome = true ∧ s.uart.rx.length < Config.UART_FIFO_DEPTH
  · exact .inl ⟨h.1, h.2, by simp [uartDeliver, uartReady, h.1, h.2]⟩
  · refine .inr ⟨h, ?_⟩
    unfold uartDeliver
    rw [if_neg]
    simpa [uartReady] using h

/-- The handler's transition: entry, return, or nothing (R224, R226). -/
theorem handlerTransition_cases (s : State) :
    (s.isrState = .idle ∧ s.irqEn = true ∧ s.uart.rx ≠ [] ∧
      handlerTransition s = { s with isrState := .drain }) ∨
    (s.isrState = .drain ∧ s.uart.rx = [] ∧ handlerTransition s = { s with isrState := .idle }) ∨
    (handlerTransition s = s) := by
  unfold handlerTransition irq uartRxAvail enterHandler leaveHandler
  cases h : s.isrState with
  | idle => by_cases hi : s.irqEn = true <;> by_cases hr : s.uart.rx = [] <;> simp [hi, hr]
  | drain => by_cases hr : s.uart.rx = [] <;> simp [hr]

/-- A rate is applied when it is in range, and ignored otherwise (R171). -/
theorem applyBaud_cases (r : Baud) (s : State) :
    (1 ≤ r.toNat ∧ r.toNat ≤ 921600 ∧
      applyBaud r s =
        { s with
          uart := { s.uart with rate := r }
          strobes := { s.strobes with uartSetBaud := some r }
          baudCfg := r }) ∨
    (¬(1 ≤ r.toNat ∧ r.toNat ≤ 921600) ∧ applyBaud r s = s) := by
  by_cases h : 1 ≤ r.toNat ∧ r.toNat ≤ 921600
  · refine .inl ⟨h.1, h.2, ?_⟩
    have : baudAccepted r = true := by
      simp [baudAccepted, Config.BAUD_MAX, BitVec.le_def, Config.BW, h.1, h.2]
    simp [applyBaud, this, uartSetBaud]
  · refine .inr ⟨h, ?_⟩
    have : baudAccepted r = false := by
      simp only [baudAccepted, Config.BAUD_MAX, BitVec.le_def, Bool.and_eq_false_iff, decide_eq_false_iff_not]
      exact Decidable.not_and_iff_or_not.1 h
    simp [applyBaud, this]

/-- The mailbox after a service: a held request stays, else the oldest waiting one is presented (R203 c, R248). -/
theorem presentRequest_cases (u : Usb) :
    (u.lcValid = false ∧ ∃ r q, u.lcQueue = r :: q ∧
      presentRequest u = { u with lcValid := true, lcBaud := r, lcQueue := q }) ∨
    ((u.lcValid = true ∨ u.lcQueue = []) ∧ presentRequest u = u) := by
  unfold presentRequest
  cases hv : u.lcValid with
  | true => exact .inr ⟨.inl rfl, rfl⟩
  | false =>
    cases hq : u.lcQueue with
    | nil => exact .inr ⟨.inr rfl, rfl⟩
    | cons r q => exact .inl ⟨rfl, r, q, rfl, rfl⟩

/-- A service touches the mailbox and what EnvB may move, and never the transmit stream (R244). -/
theorem usbServiceCall_usb (s : State) :
    (usbServiceCall s).usb.connected = (nextHostAct s).connected ∧
    (usbServiceCall s).usb.space = max s.usb.space (min (nextHostAct s).space Config.USB_TXBUF) ∧
    (usbServiceCall s).usb.rx = s.usb.rx ++ (nextHostAct s).bytes ∧
    (usbServiceCall s).usb.tx = s.usb.tx := by
  show (presentRequest (hostMoves s.usb (nextHostAct s))).connected = _ ∧
    (presentRequest (hostMoves s.usb (nextHostAct s))).space = _ ∧
    (presentRequest (hostMoves s.usb (nextHostAct s))).rx = _ ∧
    (presentRequest (hostMoves s.usb (nextHostAct s))).tx = _
  rcases presentRequest_cases (hostMoves s.usb (nextHostAct s)) with ⟨_, r, q, _, h⟩ | ⟨_, h⟩ <;>
    rw [h] <;> exact ⟨rfl, rfl, rfl, rfl⟩

/-- `usb.write` accepts no more than offered and no more than fits (R246). -/
theorem usbAccepted_le (s : State) (n : Nat) : usbAccepted s n ≤ n ∧ usbAccepted s n ≤ s.usb.space :=
  ⟨Nat.min_le_left _ _, Nat.min_le_right _ _⟩

/-- The bytes EGRESS offers are at most as many as were obtained. -/
theorem egressBytes_length (s : State) :
    (egressBytes s).length = min s.scratch.egGot.toNat s.scratch.egBuf.length := by
  simp [egressBytes]

/-- `eg_k` as a number: the minimum of the three (R152). -/
theorem egressTarget_toNat (s : State) :
    (egressTarget s).toNat = min s.scratch.egA.toNat (min s.scratch.egS 64) := by
  have : min s.scratch.egA.toNat (min s.scratch.egS 64) < 2 ^ 7 := by omega
  simp only [egressTarget, Config.CHUNK, BitVec.toNat_ofNat]
  exact Nat.mod_eq_of_lt this

/-- INGRESS's I3: a ready UART takes the byte, one that is not ready keeps the write waiting (R242). -/
theorem ingressI3_cases (j : BitVec 6) (s : State) :
    (s.uart.txReady = true ∧
      ingressI3 j s = { s with
        uart := { s.uart with tx := s.uart.tx ++ [ingressByte s j] }
        strobes := { s.strobes with uartTxPush := some (ingressByte s j) }
        ustep := if j.toNat + 1 < s.scratch.inN.toNat then .i3 (j + 1#6) else .i4 }) ∨
    (s.uart.txReady = false ∧ ingressI3 j s = s) := by
  cases h : s.uart.txReady with
  | true => exact .inl ⟨rfl, by simp only [ingressI3, uartTxReady, h, if_true]; simp only [uartPush, h]⟩
  | false => exact .inr ⟨rfl, by simp [ingressI3, uartTxReady, h]⟩

/-- The indicator's evaluation, by the mode it selects (R183). -/
theorem evaluate_cases (s : State) :
    (s.scratch.tNow - s.scratch.tLa < 200#32 ∧
      evaluate s = { s.led with mode := 0#2, out := !s.led.out }) ∨
    (¬s.scratch.tNow - s.scratch.tLa < 200#32 ∧ s.usb.connected = true ∧
      evaluate s = { s.led with mode := 1#2, out := true }) ∨
    (¬s.scratch.tNow - s.scratch.tLa < 200#32 ∧ s.usb.connected = false ∧
      evaluate s = { s.led with
        mode := 2#2, phase := s.led.phase + 1#8, out := (s.led.phase + 1#8).getLsbD 2 }) := by
  by_cases h : s.scratch.tNow - s.scratch.tLa < 200#32
  · exact .inl ⟨h, by simp [evaluate, elapsed, Config.T_ACTIVE, h]⟩
  · cases hc : s.usb.connected with
    | true => exact .inr (.inl ⟨h, rfl, by simp [evaluate, elapsed, Config.T_ACTIVE, h, hc]⟩)
    | false => exact .inr (.inr ⟨h, rfl, by simp [evaluate, elapsed, Config.T_ACTIVE, h, hc, Config.PHASE_BIT]⟩)

/-- The responses as words (R98). -/
theorem responseWord_plain (ok : Bool) : responseWord (plainResponse ok) = if ok then 0x4000#16 else 0x0000#16 := by
  cases ok <;> decide

/-- The response to an illegal word (R97). -/
theorem responseWord_err : responseWord errResponse = 0x8000#16 := by decide

/-- A legal word runs the operation it spells, on the port it was presented on. -/
theorem runWord_legal {p : Port} {w : Word} {i : Instr} (h : decode p w = .ok i) (s : State) :
    runWord p w s = exec i (present p s w) := by simp [runWord, h]

/-- An illegal word only answers `err` (R97). -/
theorem runWord_illegal {p : Port} {w : Word} {e : Illegal} (h : decode p w = .error e) (s : State) :
    runWord p w s = .next (raiseIllegal p (present p s w)) := by simp [runWord, h]

/-- A decided turn is the one that comes next. -/
@[simp] theorem nextTurn_decideTurn (u : Turn) (s : State) : nextTurn (decideTurn u s) = u := rfl

/-- One step is the next turn run from the state in which the step begins. -/
theorem step_eq (s : State) : step s = runTurn (nextTurn s) (beginStep s) := rfl

end Sys2Proof.Machine
end

