-- ==== Sys2Proof/Laws/PerInstr.lean ====
section
/-! SUPPORT. Statements per operation. `TableRow`: an operation's word has the `match` bits of its row under the row's
`mask` (R92), and it decodes back to the operation on every port that its class admits (R94, R95). -/

namespace Sys2Proof.Laws.TableRow

/-- What is said of one operation. -/
def Statement (i : Instr) : Prop :=
  encode i &&& tableMask i = tableMatch i ∧ ∀ p, WellFormed p i = true → decode p (encode i) = .ok i

theorem nop : Statement .nop := ⟨by decide, fun p => by cases p <;> decide⟩

theorem put (b : Byte) : Statement (.put b) :=
  ⟨(by decide : ∀ b, encode (.put b) &&& 0xFF00#16 = 0x1000#16) b, fun p => by
    cases p
    · exact fun _ => (by decide : ∀ b, decode .w (encode (.put b)) = .ok (.put b)) b
    · exact fun h => nomatch h⟩

theorem touchw : Statement .touchw := ⟨by decide, fun p => by cases p <;> decide⟩

theorem rxbyte : Statement .rxbyte := ⟨by decide, fun p => by cases p <;> decide⟩

theorem baud : Statement .baud := ⟨by decide, fun p => by cases p <;> decide⟩

theorem get : Statement .get := ⟨by decide, fun p => by cases p <;> decide⟩

theorem avail : Statement .avail := ⟨by decide, fun p => by cases p <;> decide⟩

theorem peek (i : BitVec 6) : Statement (.peek i) :=
  ⟨(by decide : ∀ i, encode (.peek i) &&& 0xFFC0#16 = 0x7000#16) i, fun p => by
    cases p
    · exact fun h => nomatch h
    · exact fun _ => (by decide : ∀ i, decode .r (encode (.peek i)) = .ok (.peek i)) i⟩

theorem adv : Statement .adv := ⟨by decide, fun p => by cases p <;> decide⟩

theorem touchr : Statement .touchr := ⟨by decide, fun p => by cases p <;> decide⟩

theorem svc : Statement .svc := ⟨by decide, fun p => by cases p <;> decide⟩

theorem banner : Statement .banner := ⟨by decide, fun p => by cases p <;> decide⟩

theorem egress : Statement .egress := ⟨by decide, fun p => by cases p <;> decide⟩

theorem ingress : Statement .ingress := ⟨by decide, fun p => by cases p <;> decide⟩

theorem indic : Statement .indic := ⟨by decide, fun p => by cases p <;> decide⟩

theorem boot : Statement .boot := ⟨by decide, fun p => by cases p <;> decide⟩

end Sys2Proof.Laws.TableRow
end

