-- ==== Sys2Proof/Tests/Slice0.lean ====
section
/-! SUPPORT. Tests: the words of R92 and of 95_test_vectors.md 2.1, one or two single steps per operation with the results
that 95_test_vectors.md gives, the checks of WellFormed, and for each statement with hypotheses a state that meets them.
The source of each expected result stands before it. -/

namespace Sys2Proof.Tests

open Sys2Proof Sys2Proof.Machine

/-! ## Small states -/

/-- The reset state with index registers `head/tail/head_r/tail_w` and storage. -/
def ring (h t hr tw : Index) (m : Memory := []) : State :=
  { State.reset with ring := { head := h, tail := t, headR := hr, tailW := tw, buf := m } }

/-- A state in which the given turn comes next. -/
def turn (t : Turn) (s : State) : State := { s with env := { s.env with turns := [t] } }

/-- A state whose R domain stands at the given micro-step. -/
def atU (u : UStep) (s : State) : State := { s with ustep := u }

/-- A state whose W domain stands at the given micro-step of RXBYTE. -/
def atW (u : WStep) (s : State) : State := { s with wstep := u }

/-- A state with a connected host. -/
def online (s : State) : State := { s with usb := { s.usb with connected := true } }

/-- A state with bytes in the UART's receive FIFO. -/
def fifo (bs : List Byte) (s : State) : State := { s with uart := { s.uart with rx := bs } }

/-- A state with host bytes to read. -/
def hostBytes (bs : List Byte) (s : State) : State := { s with usb := { s.usb with rx := bs } }

/-- A state with a request on the mailbox. -/
def request (r : Baud) (s : State) : State := { s with usb := { s.usb with lcValid := true, lcBaud := r } }

/-- The outcome is a next state of which `p` holds. -/
def after (o : Host.Outcome State Fault Refusal) (p : State → Bool) : Bool :=
  match o with
  | .next t => p t
  | .fault _ => false
  | .refused _ => false

/-- The four index registers. -/
def idx (s : State) : Index × Index × Index × Index := (s.ring.head, s.ring.tail, s.ring.headR, s.ring.tailW)

/-! ## The parameters -/

/-- The values of R8 and the constraints of R9 between them. -/
theorem test_parameters :
    Config.C = 4096 ∧ Config.C = 2 ^ Config.AW ∧ 2 ≤ Config.C ∧ Config.CHUNK = 64 ∧ Config.CHUNK ≤ Config.C - 1 ∧
    Config.T_GATE.toNat = 100 ∧ Config.T_ACTIVE.toNat = 200 ∧ 200 < 2 ^ (Config.TW - 1) ∧ Config.PHASE_BIT < Config.PW ∧
    Config.BAUD_MAX.toNat = 921600 ∧ Config.BAUD_DEFAULT.toNat = 115200 ∧ Config.SYNC = .lagged := by decide

/-! ## WellFormed: an ill-formed term for each check -/

/-- R95 (d): a class W operation on the R port. -/
theorem test_wellFormed_w_on_r : WellFormed .r (.put 0x41#8) = false ∧ WellFormed .r .touchw = false ∧
    WellFormed .r .rxbyte = false := by decide

/-- R95 (e): a class R operation on the W port. -/
theorem test_wellFormed_r_on_w : WellFormed .w .get = false ∧ WellFormed .w .touchr = false ∧
    WellFormed .w (.peek 0#6) = false := by decide

/-- R91: class X on either port. -/
theorem test_wellFormed_nop : WellFormed .w .nop = true ∧ WellFormed .r .nop = true := by decide

/-- R102: `COMMIT n` for `0 <= n <= 64`, `PUTS` with at least one byte. -/
theorem test_wellFormed_pseudo : Pseudo.wellFormed (.commit 64) = true ∧ Pseudo.wellFormed (.commit 65) = false ∧
    Pseudo.wellFormed (.puts [1#8]) = true ∧ Pseudo.wellFormed (.puts []) = false := by decide

/-! ## Decoding: words written out from R92 and from 95_test_vectors.md 2.1 -/

theorem test_decode_nop : decode .w 0b0000000000000000#16 = .ok .nop ∧ decode .r 0x0000#16 = .ok .nop := by decide
theorem test_decode_put : decode .w 0b0001000001000001#16 = .ok (.put 0x41#8) ∧
    decode .w 0x10FF#16 = .ok (.put 0xFF#8) := by decide
theorem test_decode_touchw : decode .w 0b0010000000000000#16 = .ok .touchw := by decide
theorem test_decode_rxbyte : decode .w 0b0011000000000000#16 = .ok .rxbyte := by decide
theorem test_decode_baud : decode .r 0b0100000000000000#16 = .ok .baud := by decide
theorem test_decode_get : decode .r 0b0101000000000000#16 = .ok .get := by decide
theorem test_decode_avail : decode .r 0b0110000000000000#16 = .ok .avail := by decide
theorem test_decode_peek : decode .r 0b0111000000111111#16 = .ok (.peek 63#6) ∧
    decode .r 0x7002#16 = .ok (.peek 2#6) := by decide
theorem test_decode_adv : decode .r 0b1000000000000000#16 = .ok .adv := by decide
theorem test_decode_touchr : decode .r 0b1001000000000000#16 = .ok .touchr := by decide
theorem test_decode_svc : decode .r 0b1010000000000000#16 = .ok .svc := by decide
theorem test_decode_banner : decode .r 0b1011000000000000#16 = .ok .banner := by decide
theorem test_decode_egress : decode .r 0b1100000000000000#16 = .ok .egress := by decide
theorem test_decode_ingress : decode .r 0b1101000000000000#16 = .ok .ingress := by decide
theorem test_decode_indic : decode .r 0b1110000000000000#16 = .ok .indic := by decide
theorem test_decode_boot : decode .r 0b1111000000000000#16 = .ok .boot := by decide

/-- V-EN-5 to V-EN-8, V-EN-10, V-EN-15, V-EN-16, V-EN-19. -/
theorem test_decode_illegal : decode .w 0x1100#16 = .error .reservedArg ∧ decode .r 0x1041#16 = .error .wrongPort ∧
    decode .w 0x5000#16 = .error .wrongPort ∧ decode .r 0x5001#16 = .error .reservedArg ∧
    decode .r 0x7040#16 = .error .reservedArg ∧ decode .r 0x2000#16 = .error .wrongPort ∧
    decode .w 0x9000#16 = .error .wrongPort ∧ decode .r 0xA800#16 = .error .reservedArg := by decide

/-- The host's numbering: 16 bits a row, and a set bit above them is no word. -/
theorem test_decodeTableWord : decodeTableWord 16 0x1041 = some (.put 0x41#8) ∧ decodeTableWord 16 0x5001 = none ∧
    decodeTableWord 24 0x10000 = none := by decide

/-- R101's listing lines. -/
theorem test_listingLine : listingLine .w (.put 0x41#8) = "W: PUT 0x41   ; 0x1041" ∧
    listingLine .r (.peek 63#6) = "R: PEEK 63   ; 0x703F" := by decide

/-- R98's examples. -/
theorem test_response : responseWord (byteResponse 0x41#8) = 0x6041#16 ∧ responseWord (countResponse 3#12) = 0x4003#16 ∧
    responseWord errResponse = 0x8000#16 := by decide

/-- The Gray table of 95_test_vectors.md 2.4. -/
theorem test_gray : gray 4#12 = 0x006#12 ∧ gray 7#12 = 0x004#12 ∧ gray 8#12 = 0x00C#12 ∧ gray 4094#12 = 0x801#12 := by
  decide

/-! ## Single steps -/

/-- R110. -/
theorem test_nop : after (step (turn (.harness .w 0x0000#16) State.reset)) (fun t =>
    t.ports.wResp == 0x4000#16 && t.ports.rResp == 0x0000#16 && idx t == (0, 0, 0, 0)) = true := by decide

/-- V-RB-2: the wrap. -/
theorem test_put_wraps : after (step (turn (.harness .w 0x107E#16) (ring 4095 10 4095 10))) (fun t =>
    t.ports.wResp == 0x4000#16 && idx t == (0, 10, 4095, 10) && t.ring.buf == [(4095, 0x7E#8)]) = true := by decide

/-- V-RB-3: full. -/
theorem test_put_full : after (step (turn (.harness .w 0x1055#16) (ring 9 10 9 10 [(9, 1#8)]))) (fun t =>
    t.ports.wResp == 0x0000#16 && idx t == (9, 10, 9, 10) && t.ring.buf == [(9, 1#8)]) = true := by decide

/-- V-AC-1. -/
theorem test_touchw : after (step (turn (.harness .w 0x2000#16) { State.reset with nowMs := 1050#32 })) (fun t =>
    t.lastActivity == 1050#32 && t.ports.wResp == 0x4000#16) = true := by decide

/-- V-AC-6, its first line. -/
theorem test_touchr : after (step (turn (.harness .r 0x9000#16) { State.reset with nowMs := 500#32 })) (fun t =>
    t.lastActivity == 500#32 && t.ports.rResp == 0x4000#16) = true := by decide

/-- V-RX-2: an empty FIFO. -/
theorem test_rxbyte_empty : after (step (turn (.harness .w 0x3000#16) State.reset)) (fun t =>
    t.ports.wResp == 0x0000#16 && t.wstep == .idle && t.lastActivity == 0#32) = true := by decide

/-- V-RX-3, micro-step X2: the inner PUT of a full buffer, word 0x1055. -/
theorem test_rxbyte_full :
    after (step (turn (.agent .w) (atW .x2 { ring 9 10 9 10 with scratch := { State.reset.scratch with rxd := 0x55#8 } })))
      (fun t => t.ports.wCmd == 0x1055#16 && t.ports.wResp == 0x0000#16 && idx t == (9, 10, 9, 10) && t.ring.buf == [] &&
        t.wstep == .x3) = true := by decide

/-- V-BD-6. -/
theorem test_baud_accepts : after (exec .baud (request 0x000E1000#32 State.reset)) (fun t =>
    t.baudCfg == 921600#32 && t.uart.rate == 921600#32 && t.strobes.lcAck) = true := by decide

/-- V-BD-8, from `baud_cfg = 115200`. -/
theorem test_baud_rejects : after (exec .baud (request 0x80000000#32 { State.reset with baudCfg := 115200#32 })) (fun t =>
    t.baudCfg == 115200#32 && t.strobes.uartSetBaud == none && t.strobes.lcAck && !t.usb.lcValid) = true := by decide

/-- V-RB-6: the wrap. -/
theorem test_get_wraps : after (step (turn (.harness .r 0x5000#16) (ring 2 4095 2 4095 [(4095, 0x99#8)]))) (fun t =>
    t.ports.rResp == 0x6099#16 && idx t == (2, 0, 2, 4095)) = true := by decide

/-- V-RB-8: the stale shadow. -/
theorem test_get_stale : after (step (turn (.harness .r 0x5000#16) (ring 1 0 0 0 [(0, 0x41#8)]))) (fun t =>
    t.ports.rResp == 0x4000#16 && idx t == (1, 0, 0, 0)) = true := by decide

/-- V-RB-9. -/
theorem test_avail_wraps : after (step (turn (.harness .r 0x6000#16) (ring 1 4094 1 4094))) (fun t =>
    t.ports.rResp == 0x4003#16 && idx t == (1, 4094, 1, 4094)) = true := by decide

/-- V-RB-11: the shadow under-reports. -/
theorem test_avail_stale : after (step (turn (.harness .r 0x6000#16) (ring 3 0 1 0))) (fun t =>
    t.ports.rResp == 0x4001#16) = true := by decide

/-- V-RB-12: the address wraps. -/
theorem test_peek_wraps : after (step (turn (.harness .r 0x7002#16) (ring 1 4094 1 4094 [(0, 0x43#8)]))) (fun t =>
    t.ports.rResp == 0x6043#16 && idx t == (1, 4094, 1, 4094)) = true := by decide

/-- V-RB-13: the offset at the count. -/
theorem test_peek_beyond : after (step (turn (.harness .r 0x7003#16) (ring 1 4094 1 4094 [(0, 0x43#8)]))) (fun t =>
    t.ports.rResp == 0x4000#16) = true := by decide

/-- V-RB-15. -/
theorem test_adv_wraps : after (step (turn (.harness .r 0x8000#16) (ring 2 4095 2 4095))) (fun t =>
    t.ports.rResp == 0x4000#16 && idx t == (2, 0, 2, 4095)) = true := by decide

/-- V-RB-16. -/
theorem test_adv_empty : after (step (turn (.harness .r 0x8000#16) (ring 5 5 5 5))) (fun t =>
    t.ports.rResp == 0x0000#16 && idx t == (5, 5, 5, 5)) = true := by decide

/-- V-SV-3, the first S0: of two requests the older is presented. -/
theorem test_svc_service :
    after (step { turn (.harness .r 0xA000#16) State.reset with
      env := { turns := [.harness .r 0xA000#16], hostActs := [⟨true, 0, [1#8], [57600#32, 0#32]⟩], draws := 0 } })
      (fun t => t.usb.connected && t.usb.rx == [1#8] && t.usb.lcValid && t.usb.lcBaud == 57600#32 &&
        t.usb.lcQueue == [0#32] && t.ustep == .s1) = true := by decide

/-- R203's example, S1: word 0x4000 on the port, `baud_cfg = 57600`, and `sched_step` goes from 1 to 2. -/
theorem test_svc_baud : after (step (turn (.agent .r) (atU .s1 (request 57600#32 { State.reset with schedStep := 1#3 }))))
    (fun t => t.ports.rCmd == 0x4000#16 && t.baudCfg == 57600#32 && t.schedStep == 2#3 && t.ustep == .idle) = true := by
  decide

/-- V-BN-1. -/
theorem test_banner_offline : after (exec .banner (atU .b1 State.reset)) (fun t =>
    !t.bannerSent && t.usb.tx == [] && t.ustep == .idle && t.ports.rResp == 0x4000#16) = true := by decide

/-- R191 B4. -/
theorem test_banner_flag : after (exec .banner (atU .b4 { State.reset with schedStep := 2#3 })) (fun t =>
    t.bannerSent && t.schedStep == 3#3) = true := by decide

/-- V-BT-3: a disconnected host ends EGRESS at E0 and `sched_step` advances all the same. -/
theorem test_egress_offline : after (step (turn (.agent .r) { ring 3 0 3 0 with schedStep := 3#3 })) (fun t =>
    t.ports.rCmd == 0xC000#16 && t.schedStep == 4#3 && t.ring.tail == 0#12 && t.usb.tx == []) = true := by decide

/-- V-EG-3, micro-step E6: the bytes obtained are offered whole and accepted. -/
theorem test_egress_write :
    after (exec .egress { online (ring 3 0 3 0) with
      ustep := .e6
      usb := { State.reset.usb with connected := true, space := 64 }
      scratch := { State.reset.scratch with egBuf := [0x41#8, 0x42#8, 0x43#8], egGot := 3#7 } })
      (fun t => t.usb.tx == [.byte 0x41#8, .byte 0x42#8, .byte 0x43#8] && t.usb.space == 61 && t.scratch.egAcc == 3#7) =
      true := by decide

/-- V-IG-3, micro-step I2: one host byte. -/
theorem test_ingress_read : after (exec .ingress (atU .i2 (online (hostBytes [0x0D#8] State.reset)))) (fun t =>
    t.scratch.inN == 1#7 && t.scratch.inBuf.head? == some 0x0D#8 && t.usb.rx == [] && t.ustep == .i3 0#6) = true := by
  decide

/-- R242: a UART that is not ready keeps I3 waiting. -/
theorem test_ingress_waits : after (step (turn (.agent .r) { State.reset with
      ustep := .i3 0#6
      uart := { State.reset.uart with txReady := false }
      scratch := { State.reset.scratch with inN := 1#7 } }))
    (fun t => t.ustep == .i3 0#6 && t.uart.tx == [] && t.strobes.uartTxPush == none) = true := by decide

/-- V-IG-3, micro-step I4: word 0x9000 on the port, the touch. -/
theorem test_ingress_touch :
    after (step (turn (.agent .r) { State.reset with
      ustep := .i4, nowMs := 2000#32, scratch := { State.reset.scratch with inN := 1#7 } }))
      (fun t => t.lastActivity == 2000#32 && t.ports.rCmd == 0x9000#16 && t.ports.rResp == 0x4000#16) = true := by decide

/-- V-IN-2: the gate at 99. -/
theorem test_indic_closed : after (exec .indic { State.reset with
      ustep := .l2, scratch := { State.reset.scratch with tNow := 99#32 } })
    (fun t => t.ustep == .idle && t.led == State.reset.led) = true := by decide

/-- V-IN-10: BREATHE_IDLE at the wrap of the phase. -/
theorem test_indic_breathe : after (exec .indic { State.reset with
      ustep := .l4
      led := { mode := 2#2, phase := 255#8, last := 1000#32, out := true }
      scratch := { State.reset.scratch with tNow := 1000#32, tLa := 0#32 } })
    (fun t => t.led == { mode := 2#2, phase := 0#8, last := 1000#32, out := false }) = true := by decide

/-- V-BT-1: from reset the R sequencer issues BOOT, and its first micro-step configures the UART. -/
theorem test_boot_first : after (step (turn (.agent .r) State.reset)) (fun t =>
    t.ports.rCmd == 0xF000#16 && t.baudCfg == 115200#32 && t.uart.rate == 115200#32 && !t.irqEn && t.ustep == .t1) =
    true := by decide

/-- V-BT-1, the last micro-step. -/
theorem test_boot_last : after (exec .boot (atU .t2 State.reset)) (fun t =>
    t.irqEn && t.schedStep == 1#3 && t.ports.rResp == 0x4000#16) = true := by decide

/-- Log 24: a placed word is presented and run by the very next step, on its own port (response 0x4000 of R98). -/
theorem test_withFetchWord :
    after (step (State.reset.withFetchWord 16 0x1041)) (fun t => t.ports.wCmd == 0x1041#16 && t.ports.wResp == 0x4000#16) =
      true ∧
    after (step (State.reset.withFetchWord 16 0xC000)) (fun t => t.ports.rCmd == 0xC000#16 && t.ports.rResp == 0x4000#16) =
      true ∧
    after (step (State.reset.withFetchWord 16 0x5001)) (fun t => t.ports.rResp == 0x8000#16) = true := by decide

/-- R102: `COMMIT 2` on three visible bytes, and ISR with one byte in the FIFO (V-RX-1). -/
theorem test_pseudo : after (runPseudo (.commit 2) (ring 3 0 3 0)) (fun t => idx t == (3, 2, 3, 0)) = true ∧
    after (runPseudo .isr (fifo [0x41#8] { State.reset with nowMs := 7#32 })) (fun t =>
      t.uart.rx == [] && t.ring.buf == [(0, 0x41#8)] && t.ring.head == 1#12 && t.lastActivity == 7#32) = true := by decide

/-- V-RX-6: no entry while `irq_en = 0`. -/
theorem test_handler_disabled : after (step (turn (.agent .w) (fifo [9#8] State.reset))) (fun t =>
    t.isrState == .idle && t.uart.rx == [9#8]) = true := by decide

/-! ## Witnesses: a state for each clause of each statement with hypotheses -/

theorem witness_IllegalWordOnlyAnswersErr :
    nextTurn (turn (.harness .w 0x1100#16) State.reset) = .harness .w 0x1100#16 ∧
    decode .w 0x1100#16 = .error .reservedArg ∧
    nextTurn (turn (.harness .r 0x1041#16) State.reset) = .harness .r 0x1041#16 ∧
    decode .r 0x1041#16 = .error .wrongPort := by decide

theorem witness_SequencersPresentOnlyLegalWords :
    wordR { State.reset with schedStep := 5#3 } = some 0xE000#16 ∧ wordR State.reset = some 0xF000#16 := by decide

theorem witness_ErrComesOnlyFromIllegalWords :
    after (step (turn (.harness .w 0x5000#16) State.reset)) (fun t => t.ports.wResp.getLsbD 15) = true ∧
    after (step (turn (.harness .r 0xA800#16) State.reset)) (fun t => t.ports.rResp.getLsbD 15) = true ∧
    State.reset.ports.wResp.getLsbD 12 = false ∧ State.reset.ports.rResp.getLsbD 12 = false := by decide

/-- The premises of COMMIT, ISR, PUTS and ITER: the good state of `witness_good_state` serves for ITER too. -/
theorem witness_PseudoOperationsExpand :
    State.reset.ustep = .idle ∧ State.reset.wstep = .idle ∧ State.reset.isrState = .idle ∧ State.reset.irqEn = false ∧
    (fifo [1#8] State.reset).uart.rx ≠ [] ∧ (ring 1 0 1 0 [(0, 0x41#8)]).ustep = .idle ∧
    (ring 1 0 1 0 [(0, 0x41#8)]).uart.txReady = true := by decide

theorem witness_StepRunsTheDecodedOperation :
    (nextTurn (turn (.harness .w 0x3000#16) State.reset) = .harness .w 0x3000#16 ∧
      decode .w 0x3000#16 = .ok .rxbyte ∧ State.reset.isrState = .idle ∧ State.reset.irqEn = false ∧
      State.reset.wstep = .idle) ∧
    (nextTurn (turn (.harness .r 0x703F#16) State.reset) = .harness .r 0x703F#16 ∧
      decode .r 0x703F#16 = .ok (.peek 63#6) ∧ State.reset.ustep = .idle) ∧
    nextTurn (turn (.agent .r) { State.reset with schedStep := 5#3 }) = .agent .r ∧
    inProgressR (atU (.e8 63#7) State.reset).ustep = some .egress ∧
    (nextTurn (turn (.agent .w) (atW .x1 State.reset)) = .agent .w ∧ (atW .x1 State.reset).wstep ≠ .idle) := by decide

theorem witness_HandlerIsEnteredOnRequest :
    nextTurn (turn (.agent .w) (fifo [1#8] { State.reset with irqEn := true })) = .agent .w ∧
    (fifo [1#8] { State.reset with irqEn := true }).uart.rx ≠ [] := by decide

/-- The clause without a request. -/
theorem witness_HandlerIsEnteredOnRequest_none :
    nextTurn (turn (.agent .w) (fifo [9#8] State.reset)) = .agent .w ∧ (fifo [9#8] State.reset).irqEn = false ∧
    ({ State.reset with irqEn := true } : State).uart.rx = [] := by decide

theorem witness_HandlerBodyIssuesRxbyte :
    nextTurn (turn (.agent .w) (fifo [1#8] { State.reset with isrState := .drain })) = .agent .w ∧
    (fifo [1#8] { State.reset with isrState := .drain }).wstep = .idle ∧
    (fifo [1#8] { State.reset with isrState := .drain }).uart.rx ≠ [] := by decide

theorem witness_HandlerReturnsWhenDrained :
    nextTurn (turn (.agent .w) { State.reset with isrState := .drain }) = .agent .w ∧
    ({ State.reset with isrState := .drain } : State).uart.rx = [] := by decide

theorem witness_HandlerLeavesOnlyAnEmptyFifo :
    after (step (turn (.agent .w) (fifo [1#8] { State.reset with irqEn := true }))) (fun t => t.isrState == .drain) = true ∧
    after (step (turn (.agent .w) { State.reset with isrState := .drain })) (fun t => t.isrState == .idle) = true := by
  decide

theorem witness_SynchronisersCopyTheIndices :
    nextTurn (turn (.agent .syncH) (ring 3 0 0 0)) = .agent .syncH ∧
    nextTurn (turn (.agent .syncT) (ring 3 3 3 0)) = .agent .syncT := by decide

theorem witness_TimeAdvancesByOne :
    nextTurn (turn (.agent .time) { State.reset with nowMs := 0xFFFFFFFF#32 }) = .agent .time := by decide

theorem witness_UartLineDelivers :
    nextTurn (turn (.agent (.rx 7#8)) State.reset) = .agent (.rx 7#8) ∧ State.reset.uart.frame = none ∧
    ({ State.reset.uart with frame := some bootFrame } : Uart).frame.isSome = true := by decide

/-- An empty FIFO is never full, and a FIFO at its depth is. -/
theorem witness_UartLineDelivers_depth :
    ([] : List Byte).length < Config.UART_FIFO_DEPTH ∧
    Config.UART_FIFO_DEPTH ≤ (List.replicate Config.UART_FIFO_DEPTH 0#8).length := by
  simp [Config.UART_FIFO_DEPTH]

theorem witness_MisuseIsRefusedByName :
    (nextTurn (turn (.harness .w 0x0000#16) { State.reset with irqEn := true }) = .harness .w 0x0000#16 ∧
      decode .w 0x0000#16 = .ok .nop) ∧
    (atW .x2 State.reset).wstep ≠ .idle ∧
    (nextTurn (turn (.harness .r 0x0000#16) (atU .l4 State.reset)) = .harness .r 0x0000#16 ∧
      decode .r 0x0000#16 = .ok .nop ∧ (atU .l4 State.reset).ustep ≠ .idle) ∧
    ({ State.reset with schedStep := 1#3 } : State).schedStep ≠ 0#3 ∧
    (atU .b2 State.reset).usb.connected = false ∧ (atU .e6 State.reset).usb.connected = false ∧
    (atU .i2 State.reset).usb.connected = false ∧ (atW .x1 State.reset).uart.rx = [] ∧
    6 ≤ ({ State.reset with schedStep := 6#3 } : State).schedStep.toNat := by decide

theorem witness_PutStoresUnlessFull :
    (ring 4095 0 0 0).ring.head + 1#12 = (ring 4095 0 0 0).ring.tailW ∧
    (ring 4095 1 1 1).ring.head + 1#12 ≠ (ring 4095 1 1 1).ring.tailW := by decide

theorem witness_GetReturnsTheOldestByte :
    (ring 5 5 5 5).ring.headR = (ring 5 5 5 5).ring.tail ∧
    (ring 2 4095 2 4095).ring.headR ≠ (ring 2 4095 2 4095).ring.tail := by decide

theorem witness_PeekReadsWithoutReleasing :
    (2#6).toNat < ((ring 1 4094 1 4094).ring.headR - (ring 1 4094 1 4094).ring.tail).toNat ∧
    ((ring 1 4094 1 4094).ring.headR - (ring 1 4094 1 4094).ring.tail).toNat ≤ (3#6).toNat := by decide

theorem witness_AdvReleasesOneByte :
    (ring 0 0 0 0).ring.headR = (ring 0 0 0 0).ring.tail ∧
    (ring 0 4095 0 4095).ring.headR ≠ (ring 0 4095 0 4095).ring.tail := by decide

/-! ### Runs -/

/-- The run of a schedule from a state: where a step answers no next state, the state is held. -/
def runOf (sched : Nat → Turn) (s : State) : Nat → State
  | 0 => s
  | n + 1 =>
    match step (decideTurn (sched n) (runOf sched s n)) with
    | .next t => t
    | .fault _ => runOf sched s n
    | .refused _ => runOf sched s n

/-- If every turn of the schedule steps from every state of which `P` holds to another, the run is one and `P` holds
along it. -/
theorem runOf_run {sched : Nat → Turn} {s : State} (P : State → Prop) (h0 : P s)
    (h : ∀ n u, P u → ∃ t, step (decideTurn (sched n) u) = .next t ∧ P t) :
    Run sched (runOf sched s) ∧ ∀ n, P (runOf sched s n) := by
  have hP : ∀ n, P (runOf sched s n) := fun n => by
    induction n with
    | zero => exact h0
    | succ n ih =>
      obtain ⟨t, e, p⟩ := h n _ ih
      simpa [runOf, e] using p
  refine ⟨fun n => ?_, hP⟩
  obtain ⟨t, e, _⟩ := h n _ (hP n)
  simp [runOf, e]

/-- The five agents in turn. -/
def roundRobin (n : Nat) : Turn :=
  if n % 5 = 0 then .agent .w else if n % 5 = 1 then .agent .r else if n % 5 = 2 then .agent .syncH
  else if n % 5 = 3 then .agent .syncT else .agent .time

/-- A write that never ends, since `in_n` is above 64 (no run from reset reaches it); the handler off. -/
def Writing (s : State) : Prop :=
  (∃ j, s.ustep = .i3 j) ∧ s.scratch.inN = 127#7 ∧ s.uart.txReady = true ∧ s.wstep = .idle ∧ s.isrState = .idle ∧
  s.irqEn = false

theorem writing_steps (n : Nat) (s : State) (h : Writing s) :
    ∃ t, step (decideTurn (roundRobin n) s) = .next t ∧ Writing t := by
  obtain ⟨⟨j, hj⟩, hn, hr, hw, hi, hq⟩ := h
  unfold roundRobin
  split
  · refine ⟨nopOp (presentW (beginStep (decideTurn (.agent .w) s)) 0x0000#16), ?_, ⟨j, hj⟩, hn, hr, hw, hi, hq⟩
    have h1 : wordW (beginStep (decideTurn (.agent .w) s)) = 0x0000#16 := by simp [wordW, hi]
    have h2 : handlerTransition (beginStep (decideTurn (.agent .w) s)) = beginStep (decideTurn (.agent .w) s) := by
      simp [handlerTransition, hi, irq, hq]
    show turnW (beginStep (decideTurn (.agent .w) s)) = _
    simp only [turnW, h1, h2, beginStep_fields, decideTurn_fields, hw]
    exact runWord_legal (p := .w) (i := .nop) (by decide) _
  split
  · have hstep : step (decideTurn (.agent .r) s) = .next (ingressI3 j (beginStep (decideTurn (.agent .r) s))) := by
      show turnR (beginStep (decideTurn (.agent .r) s)) = _
      simp only [turnR, beginStep_fields, decideTurn_fields, hj, inProgressR, exec, execIngress]
    refine ⟨_, hstep, ?_⟩
    rcases ingressI3_cases j (beginStep (decideTurn (.agent .r) s)) with ⟨_, e⟩ | ⟨h, _⟩
    · have hlt : j.toNat + 1 < (127#7).toNat := by
        have := j.isLt
        simp only [BitVec.toNat_ofNat]
        omega
      rw [e]
      exact ⟨⟨j + 1#6, if_pos (by simpa [hn] using hlt)⟩, hn, hr, hw, hi, hq⟩
    · exact absurd (hr.symm.trans h) (by decide)
  split
  · exact ⟨_, rfl, ⟨j, hj⟩, hn, hr, hw, hi, hq⟩
  split
  · exact ⟨_, rfl, ⟨j, hj⟩, hn, hr, hw, hi, hq⟩
  · exact ⟨_, rfl, ⟨j, hj⟩, hn, hr, hw, hi, hq⟩

/-- A fair run, and with it one for each premise on SyncH, SyncT and Time. -/
theorem witness_FairRunsMakeProgress : ∃ r, Fair roundRobin r := by
  obtain ⟨hr, hP⟩ := runOf_run (sched := roundRobin)
    (s := { State.reset with ustep := .i3 0#6, scratch := { State.reset.scratch with inN := 127#7 } })
    Writing ⟨⟨_, rfl⟩, rfl, rfl, rfl, rfl, rfl⟩ writing_steps
  refine ⟨_, hr, fun n => ⟨5 * n, by omega, ?_⟩, fun n => ⟨5 * n + 1, by omega, ?_⟩, fun n => ⟨5 * n + 2, by omega, ?_⟩,
    fun n => ⟨5 * n + 3, by omega, ?_⟩, fun n => ⟨5 * n + 4, by omega, ?_⟩,
    fun n _ _ => ⟨5 * n + 1, by omega, ?_, (hP _).2.2.1⟩⟩ <;> simp [roundRobin, Nat.add_mod]

/-- The last clause: one byte to write, the R domain first, then Time for ever. -/
theorem witness_FairRunsMakeProgress_write :
    ∃ sched r, Run sched r ∧ WriteFair sched r ∧ (r 0).ustep = .i3 0#6 ∧ (0#6).toNat < (r 0).scratch.inN.toNat ∧
      (r 0).scratch.inN.toNat ≤ 64 := by
  refine ⟨fun n => if n = 0 then .agent .r else .agent .time,
    fun n => Nat.casesOn n { State.reset with ustep := .i3 0#6, scratch := { State.reset.scratch with inN := 1#7 } }
      (fun k => { (ingressI3 0#6 (beginStep (decideTurn (.agent .r)
        { State.reset with ustep := .i3 0#6, scratch := { State.reset.scratch with inN := 1#7 } }))) with
        strobes := if k = 0 then { Strobes.quiet with uartTxPush := some 0#8 } else Strobes.quiet
        nowMs := BitVec.ofNat 32 k }), ?_, ?_, rfl, by decide, by decide⟩
  · intro n
    match n with
    | 0 => rfl
    | k + 1 =>
      have hk : BitVec.ofNat 32 k + 1#32 = BitVec.ofNat 32 (k + 1) := by
        apply BitVec.eq_of_toNat_eq
        simp
      simp only [Nat.succ_ne_zero, if_false]
      rw [← hk]
      rfl
  · intro n j h
    match n with
    | 0 => exact ⟨0, Nat.le_refl _, rfl, rfl⟩
    | k + 1 => exact absurd h (by show UStep.i4 ≠ _; exact fun e => nomatch e)

theorem witness_QueueKeepsOrderAndDropsNewest :
    State.reset.ring.headR = State.reset.ring.head ∧ State.reset.ring.tail = State.reset.ring.head ∧
    State.reset.ring.tailW = State.reset.ring.head ∧ 4095 ≤ (List.replicate 4096 (0#8 : Byte)).length := by
  refine ⟨rfl, rfl, rfl, ?_⟩
  rw [List.length_replicate]
  decide

theorem witness_ActivityClockHasOnlyItsWriters :
    after (step (turn (.agent .w) (atW .x3 { State.reset with nowMs := 7#32 }))) (fun t => t.lastActivity == 7#32) = true ∧
    State.reset.lastActivity ≠ 7#32 := by decide

theorem witness_RxbyteMicroSteps :
    (State.reset.wstep = .idle ∧ State.reset.uart.rx = []) ∧ (fifo [0x41#8] State.reset).uart.rx ≠ [] ∧
    ((atW .x1 (fifo [0x41#8] State.reset)).wstep = .x1 ∧ (atW .x1 (fifo [0x41#8] State.reset)).uart.rx = [0x41#8]) ∧
    (atW .x2 State.reset).wstep = .x2 ∧ (atW .x3 State.reset).wstep = .x3 := by decide

theorem witness_RxbyteMovesOneByte :
    ((fifo [0x55#8] (ring 9 10 9 10)).wstep = .idle ∧ (fifo [0x55#8] (ring 9 10 9 10)).uart.rx = [0x55#8] ∧
      (ring 9 10 9 10).ring.head + 1#12 = (ring 9 10 9 10).ring.tailW) ∧
    (ring 0 0 0 0).ring.head + 1#12 ≠ (ring 0 0 0 0).ring.tailW := by decide

theorem witness_BaudGuardSetsOrIgnores :
    (request 921600#32 State.reset).usb.lcValid = true ∧ (921600#32).toNat ≤ 921600 ∧ 1 ≤ (1#32).toNat ∧
    ¬(921601#32).toNat ≤ 921600 ∧ ¬1 ≤ (0#32).toNat ∧ State.reset.usb.lcValid = false := by decide

theorem witness_BaudRateHasOnlyItsWriters :
    after (step (turn (.agent .r) State.reset)) (fun t => t.baudCfg != State.reset.baudCfg) = true ∧
    after (step (turn (.agent .r) (atU .s1 (request 57600#32 State.reset)))) (fun t => t.baudCfg != 0#32) = true := by
  decide

theorem witness_EgressMicroSteps :
    (State.reset.ustep = .idle ∧ State.reset.usb.connected = false) ∧ (online State.reset).usb.connected = true ∧
    (atU .e1 State.reset).ustep = .e1 ∧ (atU .e2 State.reset).ustep = .e2 ∧ (atU .e3 State.reset).ustep = .e3 ∧
    (atU .e4 State.reset).scratch.egK = 0#7 ∧
    ({ State.reset.scratch with egK := 1#7 } : Scratch).egK ≠ 0#7 ∧
    ((atU (.e5 63#6) (ring 64 0 64 0)).ustep = .e5 63#6 ∧
      (63#6).toNat < ((ring 64 0 64 0).ring.headR - (ring 64 0 64 0).ring.tail).toNat) ∧
    ((ring 63 0 63 0).ring.headR - (ring 63 0 63 0).ring.tail).toNat ≤ (63#6).toNat ∧
    ((online (atU .e6 State.reset)).ustep = .e6 ∧ (online (atU .e6 State.reset)).usb.connected = true) ∧
    ((atU .e7 State.reset).ustep = .e7 ∧ ({ State.reset.scratch with egAcc := 64#7 } : Scratch).egAcc ≠ 0#7) ∧
    ((atU .e7 State.reset).ustep = .e7 ∧ (atU .e7 State.reset).scratch.egAcc = 0#7) ∧
    (atU (.e8 63#7) State.reset).ustep = .e8 63#7 ∧ ¬(63#7).toNat + 1 < (64#7).toNat ∧ (62#7).toNat + 1 < (64#7).toNat := by
  decide

/-- Three visible bytes and 64 bytes of space: `n = 3`. -/
def egressState : State :=
  { ring 3 0 3 0 [(0, 0x41#8), (1, 0x42#8), (2, 0x43#8)] with
    usb := { State.reset.usb with connected := true, space := 64 } }

theorem witness_EgressSendsTheOldestBytes :
    egressState.ustep = .idle ∧ egressState.usb.connected = true ∧ egressState.scratch.egBuf.length = 64 ∧
    3 = min (egressState.ring.headR - egressState.ring.tail).toNat (min egressState.usb.space 64) ∧
    0 = min ((ring 5 5 5 5).ring.headR - (ring 5 5 5 5).ring.tail).toNat (min egressState.usb.space 64) := by decide

theorem witness_IngressMicroSteps :
    (State.reset.ustep = .idle ∧ State.reset.usb.connected = false) ∧ (online State.reset).usb.connected = true ∧
    ((atU .i1 State.reset).ustep = .i1 ∧ (atU .i1 State.reset).usb.rx = []) ∧
    (hostBytes [1#8] (atU .i1 State.reset)).usb.rx ≠ [] ∧
    ((online (hostBytes [1#8] (atU .i2 State.reset))).ustep = .i2 ∧
      (online (hostBytes [1#8] (atU .i2 State.reset))).usb.connected = true) ∧
    (online (atU .i2 State.reset)).usb.rx = [] ∧
    ({ State.reset.uart with txReady := false } : Uart).txReady = false ∧
    ((atU (.i3 63#6) State.reset).ustep = .i3 63#6 ∧ State.reset.uart.txReady = true ∧ State.reset.scratch.inBuf[63]? = some 0#8) ∧
    ((atU .i4 State.reset).ustep = .i4 ∧ State.reset.scratch.inN = 0#7) ∧
    ({ State.reset.scratch with inN := 64#7 } : Scratch).inN ≠ 0#7 := by decide

theorem witness_IngressForwardsHostBytes :
    (online (hostBytes [0x0D#8] State.reset)).ustep = .idle ∧
    (online (hostBytes [0x0D#8] State.reset)).usb.connected = true ∧
    (online (hostBytes [0x0D#8] State.reset)).usb.rx ≠ [] ∧
    (online (hostBytes [0x0D#8] State.reset)).uart.txReady = true := by decide

theorem witness_IndicMicroSteps :
    State.reset.ustep = .idle ∧ (atU .l1 State.reset).ustep = .l1 ∧ (atU .l3 State.reset).ustep = .l3 ∧
    ((99#32 : Millis) - State.reset.led.last).toNat < 100 ∧ 100 ≤ ((100#32 : Millis) - State.reset.led.last).toNat ∧
    ((0x30#32 : Millis) - 0xFFFFFF9C#32).toNat < 200 ∧ 200 ≤ ((200#32 : Millis) - 0#32).toNat ∧
    (atU .l4 State.reset).usb.connected = false ∧ (online (atU .l4 State.reset)).usb.connected = true := by decide

theorem witness_IndicatorShowsTheFirstThatHolds :
    State.reset.ustep = .idle ∧ (State.reset.nowMs - State.reset.led.last).toNat < 100 ∧
    100 ≤ ((0x60#32 : Millis) - 0xFFFFFFF0#32).toNat ∧ (199#32 - 0#32 : Millis).toNat < 200 ∧
    200 ≤ (200#32 - 0#32 : Millis).toNat := by decide

theorem witness_BannerMicroSteps :
    ({ State.reset with bannerSent := true } : State).ustep = .idle ∧ State.reset.bannerSent = false ∧
    ((atU .b1 State.reset).ustep = .b1 ∧ (atU .b1 State.reset).usb.connected = false) ∧
    (online (atU .b1 State.reset)).usb.connected = true ∧
    ((online (atU .b2 State.reset)).ustep = .b2 ∧ (online (atU .b2 State.reset)).usb.connected = true) ∧
    (atU .b3 State.reset).ustep = .b3 ∧ (atU .b4 State.reset).ustep = .b4 := by decide

theorem witness_BannerIsSentOncePerPowerCycle :
    after (step (turn (.agent .r) (atU .b4 State.reset))) (fun t => t.bannerSent) = true ∧
    State.reset.bannerSent = false ∧
    after (step (turn (.agent .r) { State.reset with bannerSent := true })) (fun t => t.bannerSent) = true := by decide

theorem witness_BannerFindsTheBufferEmpty :
    BannerPending (atU .b2 (online State.reset)) ∧ (atU .b2 (online State.reset)).bannerSent = false ∧
    (atU .b2 (online State.reset)).ustep = .b2 ∧ (atU .b2 (online State.reset)).usb.connected = true ∧
    nextTurn (turn (.agent .r) (atU .b2 (online State.reset))) = .agent .r := by
  refine ⟨fun _ => ⟨fun _ _ => rfl, fun h => absurd h (by decide), fun h => absurd h (by decide)⟩, ?_⟩
  decide

theorem witness_SvcMicroSteps :
    State.reset.ustep = .idle ∧ State.reset.usb.lcValid = false ∧
    State.reset.usb.lcQueue ++ (⟨true, 128, [], [57600#32, 0#32]⟩ : HostAct).requests = [57600#32, 0#32] ∧
    State.reset.usb.lcQueue ++ (⟨true, 128, [], []⟩ : HostAct).requests = [] ∧
    (request 57600#32 State.reset).usb.lcValid = true ∧ (atU .s1 State.reset).ustep = .s1 := by decide

theorem witness_BootMicroSteps :
    (State.reset.ustep = .idle ∧ State.reset.schedStep = 0#3) ∧
    ({ State.reset with schedStep := 5#3 } : State).schedStep ≠ 0#3 ∧ (atU .t1 State.reset).ustep = .t1 ∧
    (atU .t2 State.reset).ustep = .t2 := by decide

theorem witness_SchedulerStepsInOrder :
    after (step (turn (.agent .r) (atU .t2 State.reset))) (fun t => t.schedStep == 1#3) = true ∧
    after (step (turn (.agent .r) (atU .l4 { State.reset with schedStep := 5#3 }))) (fun t => t.schedStep == 1#3) = true := by
  decide

theorem witness_InterruptStaysEnabledOnceBooted :
    after (step (turn (.agent .r) (atU .t2 State.reset))) (fun t => t.irqEn) = true ∧ State.reset.irqEn = false ∧
    after (step (turn (.agent .time) { State.reset with irqEn := true })) (fun t => t.irqEn) = true := by decide

theorem witness_ConnectionChangesOnlyInService :
    ¬serviceMoves (turn (.agent .r) (atU .e7 State.reset)) ∧
    after (step (turn (.agent .r) (atU .e7 State.reset))) (fun t => t.usb.tx == [.flush]) = true ∧
    ¬serviceMoves (turn (.agent .r) (atU .i2 (online (hostBytes [1#8] State.reset)))) ∧
    after (step (turn (.agent .r) (atU .i2 (online (hostBytes [1#8] State.reset))))) (fun t => t.usb.rx == []) = true := by
  exact ⟨fun h => absurd h.1 (by decide), by decide, fun h => absurd h.1 (by decide), by decide⟩

theorem witness_RegistersHaveOneWritingDomain :
    nextTurn (turn (.agent .time) State.reset) = .agent .time ∧
    after (step (turn (.agent .time) State.reset)) (fun t => t.nowMs == 1#32) = true := by decide

theorem witness_steps_move_indices :
    after (step (turn (.harness .w 0x1041#16) State.reset)) (fun t => t.ring.head == 1#12) = true ∧
    after (step (turn (.harness .r 0x8000#16) (ring 1 0 1 0))) (fun t => t.ring.tail == 1#12) = true ∧
    after (step (turn (.agent .syncH) (ring 3 0 0 0))) (fun t => t.ring.headR == 3#12) = true ∧
    after (step (turn (.agent .syncT) (ring 3 3 3 0))) (fun t => t.ring.tailW == 3#12) = true := by decide

/-- V-SY-7 and V-SY-4: states in which the ring invariant holds, the first at its bound; with 3 resident bytes the last
is number 2. -/
theorem witness_ring_invariant :
    RingInv (ring 4095 0 0 0) ∧ lagTail (ring 4095 0 0 0) + seen (ring 4095 0 0 0) + unseen (ring 4095 0 0 0) = 4095 ∧
    RingInv (ring 3 2 3 0) ∧ 2 < occupancy (ring 3 0 3 0) := by decide

/-- The three cases, each from a state in which the ring invariant holds: nothing, one byte appended, the first taken. -/
theorem witness_ContentsChangeOnlyAtTheEnds :
    RingInv (ring 1 0 1 0 [(0, 0x41#8)]) ∧ contents (ring 1 0 1 0 [(0, 0x41#8)]) = [0x41#8] ∧
    after (step (turn (.agent .syncT) (ring 1 0 1 0 [(0, 0x41#8)]))) (fun t => contents t == [0x41#8]) = true ∧
    after (step (turn (.harness .w 0x1042#16) (ring 1 0 1 0 [(0, 0x41#8)])))
      (fun t => contents t == [0x41#8, 0x42#8]) = true ∧
    after (step (turn (.harness .r 0x5000#16) (ring 1 0 1 0 [(0, 0x41#8)]))) (fun t => contents t == []) = true := by
  decide

theorem witness_StorageStaysCanonical :
    Memory.wf (ring 0 0 0 0 [(0, 1#8), (4095, 2#8)]).ring.buf ∧
    after (step (turn (.harness .w 0x1041#16) (ring 7 7 7 7 [(0, 1#8), (4095, 2#8)])))
      (fun t => t.ring.buf == [(0, 1#8), (7, 0x41#8), (4095, 2#8)]) = true := by decide

/-- A good state with a byte to read. -/
theorem witness_good_state : Inv (ring 1 0 1 0 [(0, 0x41#8)]) := by
  refine ⟨?_, ?_, ?_, ?_, ?_, ?_, ?_⟩
  · decide
  · decide
  · decide
  · exact ⟨by decide, by decide, by decide, by decide, by decide, by decide, by decide, by decide, Nat.le_refl _, by decide⟩
  · decide
  · trivial
  · trivial

theorem witness_OnlyWrittenCellsAreRead :
    (ring 1 0 1 0 [(0, 0x41#8)]).ring.headR ≠ (ring 1 0 1 0 [(0, 0x41#8)]).ring.tail ∧
    (0#6).toNat < seen (ring 1 0 1 0 [(0, 0x41#8)]) := by decide

/-- With `witness_good_state`: a good state in which an agent moves next. -/
theorem witness_NoAgentStopsTheLoop :
    nextTurn (turn (.agent .r) (ring 1 0 1 0 [(0, 0x41#8)])) = .agent .r := by decide

theorem witness_GoodStatesAreKept :
    after (step (turn (.agent .time) (ring 1 0 1 0 [(0, 0x41#8)]))) (fun t => t.nowMs == 1#32) = true ∧
    nextTurn (turn (.agent .time) (ring 1 0 1 0 [(0, 0x41#8)])) = .agent .time := by decide

end Sys2Proof.Tests
end

section
/-! PROOFS. How a step of each turn reduces to `exec` (R12, R93, R99, R201): one rule per turn and per position of the
sequencers, and from them that a step runs the decoded operation. -/

namespace Sys2Proof.Machine

/-! ## The step of a turn -/

/-- A harness's turn, as a step of the machine (R99). -/
theorem step_of_harness {s : State} {p : Port} {w : Word} (h : nextTurn s = .harness p w) :
    step s = turnHarness p w (beginStep s) := by
  rw [step_eq, h, runTurn]

/-- An agent's turn, as a step of the machine (R12). -/
theorem step_of_agent {s : State} {a : AgentTurn} (h : nextTurn s = .agent a) :
    step s = turnAgent a (beginStep s) := by
  rw [step_eq, h, runTurn]

/-! ## The harness (R99) -/

/-- A port is free for a harness when its domain stands between two operations and, on the W port, the handler can not
run (R99). -/
theorem harnessRefusal_eq_none_iff (p : Port) (s : State) :
    harnessRefusal p s = none ↔
      (p = .w → s.isrState = .idle ∧ s.irqEn = false ∧ s.wstep = .idle) ∧ (p = .r → s.ustep = .idle) := by
  cases p with
  | w => by_cases h : s.isrState = .idle <;> cases hi : s.irqEn <;> simp [harnessRefusal, h, hi]
  | r => simp [harnessRefusal]

/-- A legal word that the port does not refuse is executed (R99). -/
theorem turnHarness_legal {p : Port} {w : Word} {i : Instr} {s : State}
    (hd : decode p w = .ok i) (hfree : harnessRefusal p s = none) :
    turnHarness p w s = exec i (present p s w) := by
  simp only [turnHarness, hd, hfree]

/-! ## The sequencers (R201, R224) -/

/-- An operation in progress in the R domain is continued (R201, R202). -/
theorem turnR_of_inProgress {s : State} {i : Instr} (h : inProgressR s.ustep = some i) : turnR s = exec i s := by
  simp only [turnR, h]

/-- Between two operations the R sequencer presents its word and runs it (R93, R201). -/
theorem turnR_of_legal_word {s : State} {w : Word} {i : Instr}
    (hu : s.ustep = .idle) (hw : wordR s = some w) (hd : decode .r w = .ok i) : turnR s = exec i (presentR s w) := by
  simp only [turnR, hu, inProgressR, hw, runWord_legal hd, present]

/-- An RXBYTE in progress is continued (R142). -/
theorem turnW_of_busy {s : State} (h : s.wstep ≠ .idle) : turnW s = exec .rxbyte s := by
  unfold turnW
  split
  next hidle => exact absurd hidle h
  next => rfl

/-! ## The R sequencer's words (R93) -/

/-- The main loop of R201 row by row: a value of `sched_step`, the word presented there, and the operation it spells. -/
abbrev schedulerRows : List (BitVec 3 × Word × Instr) :=
  [(0#3, 0xF000#16, Instr.boot), (1#3, 0xA000#16, .svc), (2#3, 0xB000#16, .banner),
    (3#3, 0xC000#16, .egress), (4#3, 0xD000#16, .ingress), (5#3, 0xE000#16, .indic)]

/-- The words of the main loop are legal on the R port (R92, R93). -/
theorem decode_schedulerRows : ∀ row ∈ schedulerRows, decode .r row.2.1 = .ok row.2.2 := by decide

/-- `wordR` depends on `sched_step` alone. -/
theorem wordR_congr {s t : State} (h : s.schedStep = t.schedStep) : wordR s = wordR t := by
  simp only [wordR, h]

/-- The word presented at each value of `sched_step` is its row's (R93). -/
theorem wordR_of_schedulerRows {row : BitVec 3 × Word × Instr} (hrow : row ∈ schedulerRows) {s : State}
    (hk : s.schedStep = row.1) : wordR s = some row.2.1 := by
  have table : ∀ r ∈ schedulerRows, wordR { State.reset with schedStep := r.1 } = some r.2.1 := by decide
  exact (wordR_congr hk).trans (table row hrow)

/-! ## The beginning of a step (log 1, log 5) -/

/-- Beginning a step changes no register and no collaborator's state. -/
@[simp] theorem architectural_beginStep (s : State) : architectural (beginStep s) = architectural s := rfl

/-! ## The step runs the operation -/

/-- A harness's legal word on a free port is run (R99). -/
theorem step_of_harness_legal {s : State} {p : Port} {w : Word} {i : Instr}
    (ht : nextTurn s = .harness p w) (hd : decode p w = .ok i) (hfree : harnessRefusal p (beginStep s) = none) :
    step s = exec i (present p (beginStep s) w) :=
  (step_of_harness ht).trans (turnHarness_legal hd hfree)

/-- The R sequencer's turn. -/
theorem step_of_agent_r {s : State} (ht : nextTurn s = .agent .r) : step s = turnR (beginStep s) :=
  step_of_agent ht

/-- The W sequencer's turn. -/
theorem step_of_agent_w {s : State} (ht : nextTurn s = .agent .w) : step s = turnW (beginStep s) :=
  step_of_agent ht

/-- Settles O10: each turn named is one rule above, applied at the state in which the step begins, whose registers are
those of the state before. -/
theorem stepRunsTheDecodedOperation : Obligations.StepRunsTheDecodedOperation := by
  refine ⟨?harness, ?rWord, ?rInProgress, ?wInProgress, ?begins⟩
  case harness =>
    intro s p w i ht hd hw hr
    exact step_of_harness_legal ht hd ((harnessRefusal_eq_none_iff p (beginStep s)).2 ⟨hw, hr⟩)
  case rWord =>
    intro s ht hu row hrow hk
    have hd : decode .r row.2.1 = .ok row.2.2 := decode_schedulerRows row hrow
    have hw : wordR (beginStep s) = some row.2.1 := wordR_of_schedulerRows hrow hk
    exact ⟨hd, (step_of_agent_r ht).trans (turnR_of_legal_word hu hw hd)⟩
  case rInProgress =>
    intro s i ht hi
    exact (step_of_agent_r ht).trans (turnR_of_inProgress hi)
  case wInProgress =>
    intro s ht hbusy
    exact (step_of_agent_w ht).trans (turnW_of_busy hbusy)
  case begins =>
    intro s
    simp

end Sys2Proof.Machine
end

section
/-! PROOFS. What an operation can do in one atomic step, said once (R12, R14): the changes of the ring that each domain
makes, the baud rate's, and the micro-steps of the W and of the R domain. -/

namespace Sys2Proof.Machine

/-! ## The ring from one domain (R111 to R116) -/

/-- What PUT's step makes of the state: it answers, after storing a byte or without (R111). -/
inductive RingStepW (s : State) : State → Prop
  | answer (r : Response) : RingStepW s (respondW s r)
  | store (b : Byte) (r : Response) (room : s.ring.head + 1#12 ≠ s.ring.tailW) :
    RingStepW s (respondW { s with ring := { s.ring with
      head := s.ring.head + 1#12
      buf := Memory.store s.ring.buf s.ring.head.toNat b } } r)

/-- What GET, PEEK, ADV and AVAIL make of the state: they answer, after releasing a byte or without (R113 to R116). -/
inductive RingStepR (s : State) : State → Prop
  | answer (r : Response) : RingStepR s (respondR s r)
  | release (r : Response) (avail : s.ring.headR ≠ s.ring.tail) :
    RingStepR s (respondR { s with ring := { s.ring with tail := s.ring.tail + 1#12 } } r)

/-- PUT's step with its answer. -/
theorem ringStepW_putOp (b : Byte) (s : State) : RingStepW s (respondW (putOp b s).2 (putOp b s).1) := by
  obtain ⟨-, h⟩ | ⟨room, h⟩ := putOp_cases b s
  · rw [h]; exact .answer _
  · rw [h]; exact .store b _ room

/-- GET's step with its answer. -/
theorem ringStepR_getOp (s : State) : RingStepR s (respondR (getOp s).2 (getOp s).1) := by
  obtain ⟨-, h⟩ | ⟨avail, h⟩ := getOp_cases s
  · rw [h]; exact .answer _
  · rw [h]; exact .release _ avail

/-- ADV's step with its answer. -/
theorem ringStepR_advOp (s : State) : RingStepR s (respondR (advOp s).2 (advOp s).1) := by
  obtain ⟨-, h⟩ | ⟨avail, h⟩ := advOp_cases s
  · rw [h]; exact .answer _
  · rw [h]; exact .release _ avail

/-! ## The baud rate (R171) -/

/-- What BAUD's step makes of the state: the request is consumed, after a legal rate was set or without (R171). -/
inductive BaudStep (s : State) : State → Prop
  | ignore : BaudStep s (lcAckPulse (dropIdleBaud s))
  | set (r : Baud) (legal : 1 ≤ r.toNat ∧ r.toNat ≤ 921600) :
    BaudStep s (lcAckPulse (dropIdleBaud { s with
      uart := { s.uart with rate := r }
      strobes := { s.strobes with uartSetBaud := some r }
      baudCfg := r }))

/-- BAUD's step (R171). -/
theorem baudStep_baudOp (s : State) : BaudStep s (baudOp s) := by
  unfold baudOp
  obtain ⟨h1, h2, h⟩ | ⟨-, h⟩ := applyBaud_cases (lcBaudShown s) s
  · rw [h]; exact .set _ ⟨h1, h2⟩
  · rw [h]; exact .ignore

/-! ## The micro-steps of the W domain (R141) -/

/-- What an operation of the W port makes of the state in one atomic step. -/
inductive MicroStepW (s : State) : State → Prop
  | nop : MicroStepW s (nopOp s)
  | ring {q : State} (h : RingStepW s q) : MicroStepW s q
  | touch : MicroStepW s (respondW (touch s) (plainResponse true))
  | rxbyteX0 (avail : s.uart.rx ≠ []) : MicroStepW s { s with wstep := .x1 }
  | rxbyteX1 {b : Byte} {rest : List Byte} (hrx : s.uart.rx = b :: rest) :
    MicroStepW s { uartPop s b rest with wstep := .x2 }
  | rxbyteX2 {q : State} (h : RingStepW (presentW s (encode (.put s.scratch.rxd))) q) :
    MicroStepW s { q with wstep := .x3 }
  | rxbyteX3 : MicroStepW s (rxbyteX3 s)

/-- The inversion of RXBYTE (R141). -/
theorem microStepW_of_execRxbyte {s t : State} (h : execRxbyte s = .next t) : MicroStepW s t := by
  unfold execRxbyte at h
  split at h
  next =>
    cases h
    unfold rxbyteX0 uartRxAvail
    cases hrx : s.uart.rx with
    | nil => exact .ring (.answer _)
    | cons b rest => exact .rxbyteX0 (by simp [hrx])
  next =>
    split at h
    next => cases h
    next hrx => cases h; exact .rxbyteX1 hrx
  next => cases h; exact .rxbyteX2 (ringStepW_putOp _ _)
  next => cases h; exact .rxbyteX3

/-- Every operation of the W port is one of these micro-steps. -/
theorem microStepW_of_exec {i : Instr} {s t : State} (hi : WellFormed .w i = true) (h : exec i s = .next t) :
    MicroStepW s t := by
  cases i with
  | nop => cases h; exact .nop
  | put b => cases h; exact .ring (ringStepW_putOp b s)
  | touchw => cases h; exact .touch
  | rxbyte => exact microStepW_of_execRxbyte h
  | _ => cases hi

/-! ## The micro-steps of the R domain (R151 to R205) -/

/-- EGRESS's E5 at loop index `i` where PEEK answers a byte: the byte is kept and counted (R151, R154). -/
def egressCopy (i : BitVec 6) (s : State) : State :=
  { respondR (presentR s (encode (.peek i))) (byteResponse (memRead s (s.ring.tail + i.zeroExtend 12))) with
    ustep := if i.toNat + 1 < s.scratch.egK.toNat then .e5 (i + 1#6) else .e6
    scratch :=
      { s.scratch with
        egBuf := s.scratch.egBuf.set i.toNat (memRead s (s.ring.tail + i.zeroExtend 12))
        egGot := BitVec.ofNat 7 (i.toNat + 1) } }

/-- The byte of a response with `valid = 1` is read back from its `data` (R98). -/
theorem byteResponse_data (b : Byte) : (byteResponse b).data.extractLsb' 0 8 = b := by
  apply BitVec.eq_of_toNat_eq
  have := b.isLt
  simp [byteResponse]
  omega

/-- EGRESS's E5: a byte is copied, or PEEK has none and the loop ends (R151). -/
theorem egressE5_cases (i : BitVec 6) (s : State) :
    (i.toNat < (s.ring.headR - s.ring.tail).toNat ∧ egressE5 i s = egressCopy i s) ∨
    ((s.ring.headR - s.ring.tail).toNat ≤ i.toNat ∧
      egressE5 i s = { respondR (presentR s (encode (.peek i))) (plainResponse true) with ustep := .e6 }) := by
  unfold egressE5
  dsimp only
  obtain ⟨hi, h⟩ | ⟨hi, h⟩ := peekOp_cases i (presentR s (encode (.peek i)))
  · refine .inl ⟨hi, ?_⟩
    rw [h, byteResponse_data]
    rfl
  · refine .inr ⟨hi, ?_⟩
    rw [h]
    rfl

/-- An operation that takes micro-steps in the R domain is not a primitive (R14, R25). -/
theorem isPrimitive_of_inProgressR {u : UStep} {i : Instr} (h : inProgressR u = some i) : i.isPrimitive = false := by
  cases u <;> cases h <;> rfl

/-- What an operation of the R port makes of the state in one atomic step, where it stands at the first micro-step of
that operation or inside it: the lines of R151, R161, R171, R181, R191, R203 and R205, with the tests that lead past
each. `ends` stands for the lines at which an operation finds nothing to do, whatever the test. -/
inductive MicroStepR (s : State) : Instr → State → Prop
  | nop : MicroStepR s .nop (nopOp s)
  | ring {i : Instr} {q : State} (hu : s.ustep = .idle) (h : RingStepR s q) : MicroStepR s i q
  | baud {q : State} (hu : s.ustep = .idle) (h : BaudStep s q) : MicroStepR s .baud (respondR q (plainResponse true))
  | touch (hu : s.ustep = .idle) : MicroStepR s .touchr (respondR (touch s) (plainResponse true))
  | ends {i : Instr} (k : BitVec 3) (hk : k ≠ 0#3 ∧ k.toNat ≤ 5) : MicroStepR s i (finishR k s)
  | svcS0 (hu : s.ustep = .idle) : MicroStepR s .svc (svcS0 s)
  | svcS1 {q : State} (hu : s.ustep = .s1) (h : BaudStep (presentR s (encode .baud)) q) :
    MicroStepR s .svc (finishR 1#3 q)
  | bannerB0 (unsent : s.bannerSent = false) : MicroStepR s .banner { s with ustep := .b1 }
  | bannerB1 (hu : s.ustep = .b1) (conn : s.usb.connected = true) : MicroStepR s .banner { s with ustep := .b2 }
  | bannerB2 (hu : s.ustep = .b2) : MicroStepR s .banner (bannerB2 s)
  | bannerB3 (hu : s.ustep = .b3) : MicroStepR s .banner (bannerB3 s)
  | bannerB4 : MicroStepR s .banner (bannerB4 s)
  | egressE0 (conn : s.usb.connected = true) : MicroStepR s .egress { s with ustep := .e1 }
  | egressE1 (hu : s.ustep = .e1) : MicroStepR s .egress (egressE1 s)
  | egressE2 (hu : s.ustep = .e2) : MicroStepR s .egress (egressE2 s)
  | egressE3 (hu : s.ustep = .e3) : MicroStepR s .egress (egressE3 s)
  | egressE4 (hu : s.ustep = .e4) (nonzero : s.scratch.egK ≠ 0#7) : MicroStepR s .egress { s with ustep := .e5 0#6 }
  | egressE5 {i : BitVec 6} (hu : s.ustep = .e5 i) : MicroStepR s .egress (egressCopy i s)
  | egressE5End {i : BitVec 6} (r : Response) (hu : s.ustep = .e5 i)
    (none : (s.ring.headR - s.ring.tail).toNat ≤ i.toNat) :
    MicroStepR s .egress { respondR (presentR s (encode (.peek i))) r with ustep := .e6 }
  | egressE6 (hu : s.ustep = .e6) : MicroStepR s .egress (egressE6 s)
  | egressE7 (hu : s.ustep = .e7) (nonzero : s.scratch.egAcc ≠ 0#7) :
    MicroStepR s .egress { usbFlush s with ustep := .e8 0#7 }
  | egressE7End : MicroStepR s .egress (finishR 3#3 (usbFlush s))
  | egressE8 {j : Count} {q : State} (hu : s.ustep = .e8 j) (more : j.toNat + 1 < s.scratch.egAcc.toNat)
    (h : RingStepR (presentR s (encode .adv)) q) : MicroStepR s .egress { q with ustep := .e8 (j + 1#7) }
  | egressE8End {q : State} (h : RingStepR (presentR s (encode .adv)) q) : MicroStepR s .egress (finishR 3#3 q)
  | ingressI0 (conn : s.usb.connected = true) : MicroStepR s .ingress { s with ustep := .i1 }
  | ingressI1 (hu : s.ustep = .i1) (avail : s.usb.rx ≠ []) : MicroStepR s .ingress { s with ustep := .i2 }
  | ingressI2 (hu : s.ustep = .i2) : MicroStepR s .ingress (ingressI2 s)
  | ingressI3 {j : BitVec 6} (hu : s.ustep = .i3 j) : MicroStepR s .ingress { uartPush s (ingressByte s j) with
      ustep := if j.toNat + 1 < s.scratch.inN.toNat then .i3 (j + 1#6) else .i4 }
  | ingressI3Wait : MicroStepR s .ingress s
  | ingressI4 : MicroStepR s .ingress (finishR 4#3 (Machine.touch (presentR s (encode .touchr))))
  | indicL0 : MicroStepR s .indic (indicL0 s)
  | indicL1 : MicroStepR s .indic (indicL1 s)
  | indicL2 : MicroStepR s .indic { s with ustep := .l3 }
  | indicL3 : MicroStepR s .indic (indicL3 s)
  | indicL4 : MicroStepR s .indic (indicL4 s)
  | bootT0 (hu : s.ustep = .idle) (hk : s.schedStep = 0#3) : MicroStepR s .boot (bootT0 s)
  | bootT1 (hu : s.ustep = .t1) : MicroStepR s .boot (bootT1 s)
  | bootT2 (hu : s.ustep = .t2) : MicroStepR s .boot (bootT2 s)

/-- The inversion of SVC (R203). -/
theorem microStepR_of_execSvc {s t : State} (h : execSvc s = .next t) : MicroStepR s .svc t := by
  unfold execSvc at h
  split at h
  next hu => cases h; exact .svcS0 hu
  next hu =>
    cases h
    unfold svcS1
    split
    next => exact .svcS1 hu (baudStep_baudOp _)
    next => exact .ends 1#3 (by decide)
  next => cases h

/-- The inversion of BANNER (R191). -/
theorem microStepR_of_execBanner {s t : State} (h : execBanner s = .next t) : MicroStepR s .banner t := by
  unfold execBanner at h
  split at h
  next =>
    cases h
    unfold bannerB0
    split
    next => exact .ends 2#3 (by decide)
    next unsent => exact .bannerB0 (by simpa using unsent)
  next hu =>
    cases h
    unfold bannerB1
    split
    next conn => exact .bannerB1 hu conn
    next => exact .ends 2#3 (by decide)
  next hu =>
    split at h
    next => cases h; exact .bannerB2 hu
    next => cases h
  next hu => cases h; exact .bannerB3 hu
  next => cases h; exact .bannerB4
  next => cases h

/-- The inversion of EGRESS (R151). -/
theorem microStepR_of_execEgress {s t : State} (h : execEgress s = .next t) : MicroStepR s .egress t := by
  unfold execEgress at h
  split at h
  next =>
    cases h
    unfold egressE0
    split
    next conn => exact .egressE0 conn
    next => exact .ends 3#3 (by decide)
  next hu => cases h; exact .egressE1 hu
  next hu => cases h; exact .egressE2 hu
  next hu => cases h; exact .egressE3 hu
  next hu =>
    cases h
    unfold egressE4
    split
    next => exact .ends 3#3 (by decide)
    next nonzero => exact .egressE4 hu nonzero
  next hu =>
    cases h
    obtain ⟨-, h⟩ | ⟨none, h⟩ := egressE5_cases _ s
    · rw [h]; exact .egressE5 hu
    · rw [h]; exact .egressE5End _ hu none
  next hu =>
    split at h
    next => cases h; exact .egressE6 hu
    next => cases h
  next hu =>
    cases h
    unfold egressE7
    split
    next => exact .egressE7End
    next nonzero => exact .egressE7 hu nonzero
  next hu =>
    cases h
    unfold egressE8
    dsimp only
    split
    next more => exact .egressE8 hu more (ringStepR_advOp _)
    next => exact .egressE8End (ringStepR_advOp _)
  next => cases h

/-- The inversion of INGRESS (R161). -/
theorem microStepR_of_execIngress {s t : State} (h : execIngress s = .next t) : MicroStepR s .ingress t := by
  unfold execIngress at h
  split at h
  next =>
    cases h
    unfold ingressI0
    split
    next conn => exact .ingressI0 conn
    next => exact .ends 4#3 (by decide)
  next hu =>
    cases h
    unfold ingressI1
    split
    next avail => exact .ingressI1 hu (by simpa [usbRdAvail] using avail)
    next => exact .ends 4#3 (by decide)
  next hu =>
    split at h
    next => cases h; exact .ingressI2 hu
    next => cases h
  next hu =>
    cases h
    unfold ingressI3
    split
    next => exact .ingressI3 hu
    next => exact .ingressI3Wait
  next =>
    cases h
    unfold ingressI4
    split
    next => exact .ends 4#3 (by decide)
    next => exact .ingressI4
  next => cases h

/-- The inversion of INDIC (R181). -/
theorem microStepR_of_execIndic {s t : State} (h : execIndic s = .next t) : MicroStepR s .indic t := by
  unfold execIndic at h
  split at h
  next => cases h; exact .indicL0
  next => cases h; exact .indicL1
  next =>
    cases h
    unfold indicL2
    split
    next => exact .ends 5#3 (by decide)
    next => exact .indicL2
  next => cases h; exact .indicL3
  next => cases h; exact .indicL4
  next => cases h

/-- The inversion of BOOT (R205). -/
theorem microStepR_of_execBoot {s t : State} (h : execBoot s = .next t) : MicroStepR s .boot t := by
  unfold execBoot at h
  split at h
  next hu =>
    split at h
    next hk => cases h; exact .bootT0 hu hk
    next => cases h
  next hu => cases h; exact .bootT1 hu
  next hu => cases h; exact .bootT2 hu
  next => cases h

/-- Every operation of the R port, presented between two operations or continued, is one of these micro-steps. -/
theorem microStepR_of_exec {i : Instr} {s t : State} (hi : WellFormed .r i = true)
    (hu : s.ustep = .idle ∨ inProgressR s.ustep = some i) (h : exec i s = .next t) : MicroStepR s i t := by
  have hidle (hp : i.isPrimitive = true) : s.ustep = .idle :=
    hu.resolve_right fun hi => by simp [isPrimitive_of_inProgressR hi] at hp
  cases i with
  | nop => cases h; exact .nop
  | baud => cases h; exact .baud (hidle rfl) (baudStep_baudOp s)
  | get => cases h; exact .ring (hidle rfl) (ringStepR_getOp s)
  | avail => cases h; exact .ring (hidle rfl) (.answer _)
  | peek k => cases h; exact .ring (hidle rfl) (.answer _)
  | adv => cases h; exact .ring (hidle rfl) (ringStepR_advOp s)
  | touchr => cases h; exact .touch (hidle rfl)
  | svc => exact microStepR_of_execSvc h
  | banner => exact microStepR_of_execBanner h
  | egress => exact microStepR_of_execEgress h
  | ingress => exact microStepR_of_execIngress h
  | indic => exact microStepR_of_execIndic h
  | boot => exact microStepR_of_execBoot h
  | put | touchw | rxbyte => cases hi

end Sys2Proof.Machine
end

section
/-! PROOFS. The inversion of a step (R12): every step is one outside the two domains or one micro-step of a domain, taken
from the state in which that domain's word stands on its port. -/

namespace Sys2Proof.Machine

/-! ## The cases of a step (R12, R99, R201, R224) -/

/-- A step that belongs to neither sequencer and runs no operation: the synchronisers, Time, Collaborator A, and a
harness's illegal word, which only answers (R12, R97). -/
inductive OutsideStep (s : State) : State → Prop
  | syncH (ht : nextTurn s = .agent .syncH) : OutsideStep s (syncH (beginStep s))
  | syncT (ht : nextTurn s = .agent .syncT) : OutsideStep s (syncT (beginStep s))
  | time (ht : nextTurn s = .agent .time) : OutsideStep s (tick (beginStep s))
  | rx {b : Byte} (ht : nextTurn s = .agent (.rx b))
    (opened : s.uart.frame.isSome = true) (room : s.uart.rx.length < Config.UART_FIFO_DEPTH) :
    OutsideStep s { beginStep s with uart := { s.uart with rx := s.uart.rx ++ [b] } }
  | rxLost {b : Byte} (ht : nextTurn s = .agent (.rx b)) : OutsideStep s (beginStep s)
  | txReady {ready : Bool} (ht : nextTurn s = .agent (.txReady ready)) :
    OutsideStep s (setTxReady (beginStep s) ready)
  | illegalW {w : Word} (ht : nextTurn s = .harness .w w) :
    OutsideStep s (respondW (presentW (beginStep s) w) errResponse)
  | illegalR {w : Word} (ht : nextTurn s = .harness .r w) :
    OutsideStep s (respondR (presentR (beginStep s) w) errResponse)

/-- The state from which the W domain's micro-step is taken in a step from `s`: a harness's word stands on the port, or
RXBYTE is in progress, or the sequencer presents its word after the handler's transition (R99, R142, R224, R226). -/
inductive StartW (s : State) : State → Prop
  | harness {w : Word} (ht : nextTurn s = .harness .w w) : StartW s (presentW (beginStep s) w)
  | busy (ht : nextTurn s = .agent .w) (hw : s.wstep ≠ .idle) : StartW s (beginStep s)
  | word (w : Word) (ht : nextTurn s = .agent .w) (hw : s.wstep = .idle) :
    StartW s (presentW (handlerTransition (beginStep s)) w)

/-- The state from which operation `i` takes its micro-step in a step of the R domain from `s`: a harness's word stands on
the port, or `i` is in progress, or the sequencer presents its word (R99, R201). -/
inductive StartR (s : State) : Instr → State → Prop
  | harness {w : Word} {i : Instr} (ht : nextTurn s = .harness .r w) (hd : decode .r w = .ok i)
    (hu : s.ustep = .idle) : StartR s i (presentR (beginStep s) w)
  | busy {i : Instr} (ht : nextTurn s = .agent .r) (hi : inProgressR s.ustep = some i) : StartR s i (beginStep s)
  | word {row : BitVec 3 × Word × Instr} (ht : nextTurn s = .agent .r) (hu : s.ustep = .idle)
    (hrow : row ∈ schedulerRows) (hk : s.schedStep = row.1) : StartR s row.2.2 (presentR (beginStep s) row.2.1)

/-- What a step of the machine can do: a step outside the two domains, or a micro-step of one of them. -/
inductive StepCases (s t : State) : Prop
  | outside (h : OutsideStep s t)
  | w {x : State} (hx : StartW s x) (h : MicroStepW x t)
  | r {i : Instr} {x : State} (hx : StartR s i x) (h : MicroStepR x i t)

/-! ## The words that are presented (R93, R95) -/

/-- A word decodes on a port to the operation it spells, where that operation's class admits the port (R95). -/
theorem decode_ok_iff {p : Port} {w : Word} {i : Instr} :
    decode p w = .ok i ↔ decodeWord w = .ok i ∧ WellFormed p i = true := by
  unfold decode
  cases hd : decodeWord w with
  | error e => simp
  | ok j =>
    by_cases hw : WellFormed p j = true
    · simp only [hw, if_true, Except.ok.injEq]
      exact ⟨fun e => ⟨e, e ▸ hw⟩, And.left⟩
    · simp only [hw, Bool.false_eq_true, if_false, Except.ok.injEq, reduceCtorEq, false_iff]
      exact fun ⟨e, hi⟩ => hw (e ▸ hi)

/-- A decoded operation's class admits the port (R95). -/
theorem wellFormed_of_decode {p : Port} {w : Word} {i : Instr} (h : decode p w = .ok i) : WellFormed p i = true :=
  (decode_ok_iff.1 h).2

/-- The operations that take micro-steps in the R domain belong to its port (R91, R92). -/
theorem wellFormed_of_inProgressR {u : UStep} {i : Instr} (h : inProgressR u = some i) : WellFormed .r i = true := by
  cases u <;> cases h <;> rfl

/-- The R domain stands inside an operation unless `ustep` is idle (R25). -/
theorem inProgressR_eq_none_iff {u : UStep} : inProgressR u = none ↔ u = .idle := by
  cases u <;> simp [inProgressR]

/-- The R sequencer's word is a row of the main loop (R93). -/
theorem schedulerRow_of_wordR {s : State} {w : Word} (h : wordR s = some w) :
    ∃ row ∈ schedulerRows, s.schedStep = row.1 ∧ row.2.1 = w := by
  have table : ∀ k : BitVec 3, wordR { State.reset with schedStep := k } = none ∨
      ∃ row ∈ schedulerRows, k = row.1 ∧ wordR { State.reset with schedStep := k } = some row.2.1 := by decide
  have hs : wordR { State.reset with schedStep := s.schedStep } = some w := (wordR_congr rfl).trans h
  obtain hnone | ⟨row, hrow, hk, hw⟩ := table s.schedStep
  · simp [hnone] at hs
  · exact ⟨row, hrow, hk, Option.some.inj (hw.symm.trans hs)⟩

/-- The W sequencer's word is legal on its port (R93). -/
theorem decode_wordW (s : State) : ∃ i, decode .w (wordW s) = .ok i := by
  unfold wordW
  split
  · exact ⟨.rxbyte, by decide⟩
  · exact ⟨.nop, by decide⟩

/-! ## The inversion, turn by turn -/

/-- The inversion of a harness's turn (R97, R99). -/
theorem stepCases_of_harness {s t : State} {p : Port} {w : Word} (ht : nextTurn s = .harness p w)
    (h : turnHarness p w (beginStep s) = .next t) : StepCases s t := by
  unfold turnHarness at h
  split at h
  next =>
    cases h
    cases p with
    | w => exact .outside (.illegalW ht)
    | r => exact .outside (.illegalR ht)
  next i hd =>
    split at h
    next => cases h
    next hfree =>
      have hi := wellFormed_of_decode hd
      cases p with
      | w => exact .w (.harness ht) (microStepW_of_exec hi h)
      | r =>
        have hu : s.ustep = .idle := ((harnessRefusal_eq_none_iff .r _).1 hfree).2 rfl
        exact .r (.harness ht hd hu) (microStepR_of_exec hi (.inl hu) h)

/-- The inversion of the W sequencer's turn (R142, R224). -/
theorem stepCases_of_turnW {s t : State} (ht : nextTurn s = .agent .w) (h : turnW (beginStep s) = .next t) :
    StepCases s t := by
  unfold turnW at h
  split at h
  next hw =>
    obtain ⟨i, hd⟩ := decode_wordW (beginStep s)
    rw [runWord_legal hd] at h
    exact .w (.word _ ht hw) (microStepW_of_exec (wellFormed_of_decode hd) h)
  next hw => exact .w (.busy ht hw) (microStepW_of_execRxbyte h)

/-- The inversion of the R sequencer's turn (R201, R202). -/
theorem stepCases_of_turnR {s t : State} (ht : nextTurn s = .agent .r) (h : turnR (beginStep s) = .next t) :
    StepCases s t := by
  unfold turnR at h
  split at h
  next i hi => exact .r (.busy ht hi) (microStepR_of_exec (wellFormed_of_inProgressR hi) (.inr hi) h)
  next hi =>
    have hu : s.ustep = .idle := inProgressR_eq_none_iff.1 hi
    split at h
    next w hw =>
      obtain ⟨row, hrow, hk, rfl⟩ := schedulerRow_of_wordR hw
      have hd := decode_schedulerRows row hrow
      rw [runWord_legal hd] at h
      exact .r (.word ht hu hrow hk) (microStepR_of_exec (wellFormed_of_decode hd) (.inl hu) h)
    next => cases h

/-- The inversion of a step (R12). -/
theorem stepCases_of_step {s t : State} (h : step s = .next t) : StepCases s t := by
  cases ht : nextTurn s with
  | harness p w => exact stepCases_of_harness ht ((step_of_harness ht).symm.trans h)
  | agent a =>
    rw [step_of_agent ht] at h
    cases a with
    | w => exact stepCases_of_turnW ht h
    | r => exact stepCases_of_turnR ht h
    | syncH => cases h; exact .outside (.syncH ht)
    | syncT => cases h; exact .outside (.syncT ht)
    | time => cases h; exact .outside (.time ht)
    | txReady ready => cases h; exact .outside (.txReady ht)
    | rx b =>
      cases h
      obtain ⟨hopen, room, hb⟩ | ⟨-, hb⟩ := uartDeliver_cases (beginStep s) b
      · rw [hb]; exact .outside (.rx ht hopen room)
      · rw [hb]; exact .outside (.rxLost ht)

end Sys2Proof.Machine
end

section
/-! PROOFS. Which registers each domain writes (R21, R230), and which micro-steps of the R domain write `sched_step`,
`irq_en`, the UART's frame and the baud rate (R24, R31, R32). -/

namespace Sys2Proof.Machine

/-! ## The registers of each domain (R21, R35) -/

/-- The registers that the W domain alone writes, in a state that is otherwise the one after reset. -/
def registersW (s : State) : State :=
  { State.reset with
    ring := { State.reset.ring with head := s.ring.head, buf := s.ring.buf }
    isrState := s.isrState
    wstep := s.wstep
    scratch := { State.reset.scratch with rxd := s.scratch.rxd } }

/-- The registers that the R domain alone writes, Collaborator B and the UART's output side among them, in a state that is
otherwise the one after reset. -/
def registersR (s : State) : State :=
  { State.reset with
    ring := { State.reset.ring with tail := s.ring.tail }
    schedStep := s.schedStep
    ustep := s.ustep
    irqEn := s.irqEn
    bannerSent := s.bannerSent
    led := s.led
    baudCfg := s.baudCfg
    scratch := { s.scratch with rxd := State.reset.scratch.rxd }
    uart := { s.uart with rx := State.reset.uart.rx, txReady := State.reset.uart.txReady }
    usb := s.usb }

/-- Beginning a step and presenting a word write no register. -/
theorem StartR.architectural_eq {s x : State} {i : Instr} (h : StartR s i x) : architectural x = architectural s := by
  cases h <;> rfl

/-- A micro-step of the R domain writes no register of the W domain (R21). -/
theorem MicroStepR.registersW_eq {s t : State} {i : Instr} (m : MicroStepR s i t) : registersW t = registersW s := by
  cases m with
  | ring _ h | egressE8 _ _ h | egressE8End h => cases h <;> rfl
  | baud _ h | svcS1 _ h => cases h <;> rfl
  | _ => rfl

/-- A micro-step of the R domain reads nothing from the UART's receive FIFO (R21, R240). -/
theorem MicroStepR.uart_rx_eq {s t : State} {i : Instr} (m : MicroStepR s i t) : t.uart.rx = s.uart.rx := by
  cases m with
  | ring _ h | egressE8 _ _ h | egressE8End h => cases h <;> rfl
  | baud _ h | svcS1 _ h => cases h <;> rfl
  | _ => rfl

/-- A micro-step of the W domain writes no register of the R domain (R21). -/
theorem MicroStepW.registersR_eq {s t : State} (m : MicroStepW s t) : registersR t = registersR s := by
  cases m with
  | ring h | rxbyteX2 h => cases h <;> rfl
  | _ => rfl

/-- The handler's transition writes `isr_state` alone (R224, R226). -/
theorem registersR_handlerTransition (s : State) : registersR (handlerTransition s) = registersR s := by
  obtain ⟨-, -, -, h⟩ | ⟨-, -, h⟩ | h := handlerTransition_cases s <;> rw [h] <;> rfl

/-- A step of the W domain begins with the R domain's registers as they are. -/
theorem StartW.registersR_eq {s x : State} (h : StartW s x) : registersR x = registersR s := by
  cases h with
  | harness | busy => rfl
  | word => exact registersR_handlerTransition (beginStep s)

/-- A step of the R domain begins with the W domain's registers as they are. -/
theorem StartR.registersW_eq {s x : State} {i : Instr} (h : StartR s i x) : registersW x = registersW s := by
  cases h <;> rfl

/-- A step outside the two domains writes no register of either. -/
theorem OutsideStep.registers_eq {s t : State} (h : OutsideStep s t) :
    registersW t = registersW s ∧ registersR t = registersR s := by
  cases h <;> exact ⟨rfl, rfl⟩

/-- Such a start belongs to the W domain. -/
theorem StartW.moves {s x : State} (h : StartW s x) : wMoves s := by
  cases h with
  | harness ht => exact .inr ⟨_, ht⟩
  | busy ht _ => exact .inl ht
  | word _ ht _ => exact .inl ht

/-- Such a start belongs to the R domain. -/
theorem StartR.moves {s x : State} {i : Instr} (h : StartR s i x) : rMoves s := by
  cases h with
  | harness ht _ _ => exact .inr ⟨_, ht⟩
  | busy ht _ => exact .inl ht
  | word ht _ _ _ => exact .inl ht

/-- A step that is not the W domain's writes no register of the W domain (R21). -/
theorem registersW_of_step {s t : State} (h : step s = .next t) : wMoves s ∨ registersW t = registersW s := by
  cases stepCases_of_step h with
  | outside o => exact .inr o.registers_eq.1
  | w hx _ => exact .inl hx.moves
  | r hx m => exact .inr (m.registersW_eq.trans hx.registersW_eq)

/-- A step is a micro-step of the R domain or writes no register of the R domain (R21). -/
theorem registersR_of_step {s t : State} (h : step s = .next t) :
    (∃ i x, StartR s i x ∧ MicroStepR x i t) ∨ registersR t = registersR s := by
  cases stepCases_of_step h with
  | outside o => exact .inr o.registers_eq.2
  | w hx m => exact .inr (m.registersR_eq.trans hx.registersR_eq)
  | r hx m => exact .inl ⟨_, _, hx, m⟩

/-- Settles O48: the registers of each domain are unchanged by a step of any other agent, read off field by field. -/
theorem registersHaveOneWritingDomain : Obligations.RegistersHaveOneWritingDomain := by
  intro s t h
  refine ⟨fun hw => ?_, fun hr => ?_⟩
  · have e := (registersW_of_step h).resolve_left hw
    exact ⟨congrArg (·.ring.head) e, congrArg (·.ring.buf) e, congrArg (·.scratch.rxd) e, congrArg (·.isrState) e,
      congrArg (·.wstep) e⟩
  · have e := (registersR_of_step h).resolve_left fun ⟨_, _, hx, _⟩ => hr hx.moves
    exact ⟨congrArg (·.ring.tail) e, congrArg (·.schedStep) e, congrArg (·.ustep) e, congrArg (·.bannerSent) e,
      congrArg (·.led) e, congrArg (·.baudCfg) e, congrArg (·.irqEn) e, congrArg (·.usb) e,
      congrArg (·.uart.tx) e, congrArg (·.uart.rate) e, congrArg (·.uart.frame) e, congrArg (·.uart.fifoOn) e,
      congrArg (fun x => { x.scratch with rxd := t.scratch.rxd }) e⟩

/-! ## The main loop and the interrupt (R24, R32) -/

/-- At the end of operation `k` of the main loop `sched_step` stays or moves to its successor (R24, R201). -/
theorem finishR_schedStep (k : BitVec 3) (hk : k.toNat ≤ 5) (s : State) :
    (finishR k s).schedStep = s.schedStep ∨
    ((finishR k s).ustep = .idle ∧ s.schedStep.toNat ≤ 5 ∧ (finishR k s).schedStep = nextSchedStep s.schedStep) := by
  by_cases h : s.schedStep = k
  · exact .inr ⟨rfl, h ▸ hk, by simp [h]⟩
  · exact .inl (by simp [h])

/-- A micro-step of the R domain leaves `sched_step` or, at the end of an operation, moves it to its successor. -/
theorem MicroStepR.schedStep_cases {s t : State} {i : Instr} (m : MicroStepR s i t) :
    t.schedStep = s.schedStep ∨
    (t.ustep = .idle ∧ s.schedStep.toNat ≤ 5 ∧ t.schedStep = nextSchedStep s.schedStep) := by
  cases m with
  | ring _ h | egressE8 _ _ h => cases h <;> exact .inl rfl
  | baud _ h => cases h <;> exact .inl rfl
  | svcS1 _ h => cases h <;> exact finishR_schedStep 1#3 (by decide) _
  | ends k hk => exact finishR_schedStep k hk.2 s
  | bannerB4 => exact finishR_schedStep 2#3 (by decide) _
  | egressE7End => exact finishR_schedStep 3#3 (by decide) _
  | egressE8End h => cases h <;> exact finishR_schedStep 3#3 (by decide) _
  | ingressI4 => exact finishR_schedStep 4#3 (by decide) _
  | indicL4 => exact finishR_schedStep 5#3 (by decide) _
  | bootT2 => exact finishR_schedStep 0#3 (by decide) _
  | _ => exact .inl rfl

/-- The successors written out (R24). -/
theorem nextSchedStep_rows : ∀ k : BitVec 3, k.toNat ≤ 5 →
    (k = 0#3 ∧ nextSchedStep k = 1#3) ∨ (k = 1#3 ∧ nextSchedStep k = 2#3) ∨ (k = 2#3 ∧ nextSchedStep k = 3#3) ∨
    (k = 3#3 ∧ nextSchedStep k = 4#3) ∨ (k = 4#3 ∧ nextSchedStep k = 5#3) ∨ (k = 5#3 ∧ nextSchedStep k = 1#3) := by
  decide

/-- Settles O45: only a micro-step that ends an operation of the R domain moves `sched_step`, to its successor. -/
theorem schedulerStepsInOrder : Obligations.SchedulerStepsInOrder := by
  intro s t h hne
  obtain ⟨i, x, hx, m⟩ | e := registersR_of_step h
  · have hk : x.schedStep = s.schedStep := congrArg (·.schedStep) hx.architectural_eq
    obtain e | ⟨hidle, hle, e⟩ := m.schedStep_cases
    · exact absurd (e.trans hk) hne
    · rw [hk] at hle e
      rw [e]
      exact ⟨hx.moves, hidle, nextSchedStep_rows _ hle⟩
  · exact absurd (congrArg (·.schedStep) e) hne

/-- A micro-step of the R domain leaves `irq_en` or is BOOT's T2 (R32, R205). -/
theorem MicroStepR.irqEn_cases {s t : State} {i : Instr} (m : MicroStepR s i t) :
    t.irqEn = s.irqEn ∨ (s.ustep = .t2 ∧ t.irqEn = true) := by
  cases m with
  | ring _ h | egressE8 _ _ h | egressE8End h => cases h <;> exact .inl rfl
  | baud _ h | svcS1 _ h => cases h <;> exact .inl rfl
  | bootT2 hu => exact .inr ⟨hu, rfl⟩
  | _ => exact .inl rfl

/-- A micro-step of the R domain leaves the UART's frame or sets BOOT's (R205, R243). -/
theorem MicroStepR.frame_cases {s t : State} {i : Instr} (m : MicroStepR s i t) :
    t.uart.frame = s.uart.frame ∨ t.uart.frame = some bootFrame := by
  cases m with
  | ring _ h | egressE8 _ _ h | egressE8End h => cases h <;> exact .inl rfl
  | baud _ h | svcS1 _ h => cases h <;> exact .inl rfl
  | bootT0 => exact .inr rfl
  | _ => exact .inl rfl

/-- Inside an operation the R domain moves in its own sequencer's turn only: a harness finds the port busy (R99). -/
theorem StartR.agent_of_busy {s x : State} {i : Instr} (h : StartR s i x) (hu : s.ustep ≠ .idle) :
    nextTurn s = .agent .r := by
  cases h with
  | harness _ _ hidle => exact absurd hidle hu
  | busy ht _ | word ht _ _ _ => exact ht

/-- Settles O46: only BOOT's T2 writes `irq_en` and only its T0 the frame. -/
theorem interruptStaysEnabledOnceBooted : Obligations.InterruptStaysEnabledOnceBooted := by
  intro s t h
  obtain ⟨i, x, hx, m⟩ | e := registersR_of_step h
  · have hirq : x.irqEn = s.irqEn := congrArg (·.irqEn) hx.architectural_eq
    have hu : x.ustep = s.ustep := congrArg (·.ustep) hx.architectural_eq
    have hframe : x.uart.frame = s.uart.frame := congrArg (·.uart.frame) hx.architectural_eq
    have hf := m.frame_cases
    rw [hframe] at hf
    obtain e | ⟨ht2, e⟩ := m.irqEn_cases
    · rw [e, hirq]
      exact ⟨id, fun h0 h1 => absurd (h0.symm.trans h1) (by decide), hf⟩
    · have ht2' : s.ustep = .t2 := hu.symm.trans ht2
      exact ⟨fun _ => e, fun _ _ => ⟨hx.agent_of_busy (by simp [ht2']), ht2'⟩, hf⟩
  · have e' : t.irqEn = s.irqEn := congrArg (·.irqEn) e
    rw [e']
    exact ⟨id, fun h0 h1 => absurd (h0.symm.trans h1) (by decide), .inl (congrArg (·.uart.frame) e)⟩


/-! ## The words of BAUD and BOOT (R92) -/

/-- A word is its two fields, the opcode above the argument (R90). -/
theorem toNat_eq_fields (w : Word) : w.toNat = (opField w).toNat * 4096 + (argField w).toNat := by
  have : w.toNat < 65536 := w.isLt
  simp [opField, argField, Nat.shiftRight_eq_div_pow]
  omega

/-- Format Z decodes only the operation's own word (R90, R95 a). -/
theorem encode_of_decodeZ {w : Word} {i j : Instr} (h : decodeZ w i = .ok j)
    (hop : (encode i).toNat = (opField w).toNat * 4096) : encode j = w := by
  unfold decodeZ at h
  split at h
  next harg =>
    cases h
    exact BitVec.eq_of_toNat_eq (by rw [hop, toNat_eq_fields w, harg, BitVec.toNat_zero, Nat.add_zero])
  next => cases h

/-- The word of PUT as a number (R94). -/
theorem encode_put_toNat (b : Byte) : (encode (.put b)).toNat = 0x1000 + b.toNat :=
  (by decide : ∀ b, (encode (.put b)).toNat = 0x1000 + b.toNat) b

/-- The word of PEEK as a number (R94). -/
theorem encode_peek_toNat (i : BitVec 6) : (encode (.peek i)).toNat = 0x7000 + i.toNat :=
  (by decide : ∀ i, (encode (.peek i)).toNat = 0x7000 + i.toNat) i

/-- Format B decodes only the words whose low byte is the operand (R90, R94, R95 b). -/
theorem encode_of_decodeB {w : Word} {j : Instr} (h : decodeB w .put = .ok j) (hop : (opField w).toNat = 1) :
    encode j = w := by
  unfold decodeB at h
  split at h
  next hzero =>
    cases h
    apply BitVec.eq_of_toNat_eq
    have hw := toNat_eq_fields w
    have hz := congrArg BitVec.toNat hzero
    rw [encode_put_toNat]
    simp [argField, byteField, Nat.shiftRight_eq_div_pow] at *
    omega
  next => cases h

/-- Format I decodes only the words whose low six bits are the operand (R90, R94, R95 c). -/
theorem encode_of_decodeI {w : Word} {j : Instr} (h : decodeI w .peek = .ok j) (hop : (opField w).toNat = 7) :
    encode j = w := by
  unfold decodeI at h
  split at h
  next hzero =>
    cases h
    apply BitVec.eq_of_toNat_eq
    have hw := toNat_eq_fields w
    have hz := congrArg BitVec.toNat hzero
    rw [encode_peek_toNat]
    simp [argField, indexField, Nat.shiftRight_eq_div_pow] at *
    omega
  next => cases h

/-- A word that spells an operation is the operation's encoding (R92, R95). -/
theorem encode_of_decodeWord {w : Word} {i : Instr} (h : decodeWord w = .ok i) : encode i = w := by
  unfold decodeWord at h
  split at h
  case h_2 hop => exact encode_of_decodeB h hop
  case h_8 hop => exact encode_of_decodeI h hop
  case h_16 =>
    have hop : (opField w).toNat = 15 := by
      have := (opField w).isLt
      simp only [imp_false] at *
      omega
    exact encode_of_decodeZ h (by rw [hop]; rfl)
  all_goals
    rename_i hop
    exact encode_of_decodeZ h (by rw [hop]; rfl)

/-- A word presented on a port that decodes to an operation is the operation's encoding (R92, R95). -/
theorem encode_of_decode {p : Port} {w : Word} {i : Instr} (h : decode p w = .ok i) : encode i = w :=
  encode_of_decodeWord (decode_ok_iff.1 h).1

/-! ## The baud rate (R31, R170) -/

/-- A micro-step of the R domain leaves the baud rate, or sets it to a legal one on the UART and in `baud_cfg` alike: BAUD
alone or inside SVC, and BOOT's T0 (R31, R171, R205). -/
theorem MicroStepR.baud_cases {s t : State} {i : Instr} (m : MicroStepR s i t) :
    (t.baudCfg = s.baudCfg ∧ t.uart.rate = s.uart.rate) ∨
    (1 ≤ t.baudCfg.toNat ∧ t.baudCfg.toNat ≤ 921600 ∧ t.uart.rate = t.baudCfg ∧
      ((i = .baud ∧ s.ustep = .idle) ∨ s.ustep = .s1 ∨ (i = .boot ∧ s.ustep = .idle ∧ s.schedStep = 0#3))) := by
  cases m with
  | ring _ h | egressE8 _ _ h | egressE8End h => cases h <;> exact .inl ⟨rfl, rfl⟩
  | baud hu h =>
    cases h with
    | ignore => exact .inl ⟨rfl, rfl⟩
    | set r legal => exact .inr ⟨legal.1, legal.2, rfl, .inl ⟨rfl, hu⟩⟩
  | svcS1 hu h =>
    cases h with
    | ignore => exact .inl ⟨rfl, rfl⟩
    | set r legal => exact .inr ⟨legal.1, legal.2, rfl, .inr (.inl hu)⟩
  | bootT0 hu hk =>
    have legal : 1 ≤ Config.BAUD_DEFAULT.toNat ∧ Config.BAUD_DEFAULT.toNat ≤ 921600 := by decide
    exact .inr ⟨legal.1, legal.2, rfl, .inr (.inr ⟨rfl, hu, hk⟩)⟩
  | _ => exact .inl ⟨rfl, rfl⟩

/-- A primitive of the R port other than the main loop's operations is run for a harness only (R93, R99). -/
theorem StartR.harness_of_baud {s x : State} {i : Instr} (h : StartR s i x) (hi : i = .baud) :
    nextTurn s = .harness .r 0x4000#16 := by
  cases h with
  | harness ht hd _ =>
    subst hi
    rw [ht, ← encode_of_decode hd]
    rfl
  | busy _ hp => subst hi; cases isPrimitive_of_inProgressR hp
  | word _ _ hrow _ => exact absurd hi ((by decide : ∀ row ∈ schedulerRows, row.2.2 ≠ Instr.baud) _ hrow)

/-- BOOT is run at `sched_step = 0` by the R sequencer, or for a harness's word 0xF000. -/
theorem StartR.turn_of_boot {s x : State} {i : Instr} (h : StartR s i x) (hi : i = .boot) :
    nextTurn s = .agent .r ∨ nextTurn s = .harness .r 0xF000#16 := by
  cases h with
  | harness ht hd _ =>
    subst hi
    rw [ht, ← encode_of_decode hd]
    exact .inr rfl
  | busy ht _ | word ht _ _ _ => exact .inl ht

/-- Settles O33: the only micro-steps that write the rate are BAUD's, SVC's second and BOOT's first, and the turn is read
off from the operation. -/
theorem baudRateHasOnlyItsWriters : Obligations.BaudRateHasOnlyItsWriters := by
  intro s t h hne
  obtain ⟨i, x, hx, m⟩ | e := registersR_of_step h
  · have hcfg : x.baudCfg = s.baudCfg := congrArg (·.baudCfg) hx.architectural_eq
    have hrate : x.uart.rate = s.uart.rate := congrArg (·.uart.rate) hx.architectural_eq
    have hu : x.ustep = s.ustep := congrArg (·.ustep) hx.architectural_eq
    have hk : x.schedStep = s.schedStep := congrArg (·.schedStep) hx.architectural_eq
    have hwriters := m.baud_cases
    rw [hcfg, hrate, hu, hk] at hwriters
    obtain ⟨e1, e2⟩ | ⟨h1, h2, heq, who⟩ := hwriters
    · exact absurd hne (by simp [e1, e2])
    · refine ⟨h1, h2, heq, ?_⟩
      obtain ⟨hi, -⟩ | hs1 | ⟨hi, hidle, hzero⟩ := who
      · exact .inr (.inl (hx.harness_of_baud hi))
      · exact .inl ⟨hx.agent_of_busy (by simp [hs1]), .inl hs1⟩
      · obtain ht | ht := hx.turn_of_boot hi
        · exact .inl ⟨ht, .inr ⟨hidle, hzero⟩⟩
        · exact .inr (.inr ⟨ht, hzero⟩)
  · have e1 : t.baudCfg = s.baudCfg := congrArg (·.baudCfg) e
    have e2 : t.uart.rate = s.uart.rate := congrArg (·.uart.rate) e
    exact absurd hne (by simp [e1, e2])

end Sys2Proof.Machine
end

section
/-! PROOFS. What every step does to the ring: the five moves of R70, R111 and R115, and what each keeps of the ring
invariant (R72), the storage's form (R60) and the resident bytes (R73). -/

namespace Sys2Proof.Machine

/-! ## Distances between indices, modulo `C` (R61, R118) -/

section
variable (head tail headR tailW : BitVec 12)

/-- Distances that do not exceed one lap add up. -/
theorem sub_toNat_add_sub_toNat (h : (headR - tail).toNat + (head - headR).toNat ≤ 4095) :
    (head - tail).toNat = (headR - tail).toNat + (head - headR).toNat := by
  bv_omega

/-- No distance is left exactly between equal indices. -/
theorem sub_toNat_eq_zero_iff : (head - tail).toNat = 0 ↔ head = tail := by
  bv_omega

/-- A lap less one is left exactly where one more position meets the other index. -/
theorem sub_toNat_eq_last_iff : (head - tail).toNat = 4095 ↔ head + 1#12 = tail := by
  bv_omega

/-- An index that is less than a lap less one ahead may move on without meeting the other. -/
theorem succ_ne_of_sub_lt (h : (head - tail).toNat < 4095) : head + 1#12 ≠ tail :=
  mt (sub_toNat_eq_last_iff head tail).2 h.ne

/-- The leading index moves away by one, unless it would meet the other. -/
theorem succ_sub_toNat (h : head + 1#12 ≠ tail) : (head + 1#12 - tail).toNat = (head - tail).toNat + 1 := by
  bv_omega

/-- The trailing index moves closer by one, unless it stands at the other. -/
theorem sub_succ_toNat (h : headR ≠ tail) : (headR - (tail + 1#12)).toNat + 1 = (headR - tail).toNat := by
  bv_omega

/-- A position short of the leading index is not that index. -/
theorem add_ne_of_lt_sub {k : Nat} (h : k < (head - tail).toNat) : tail + BitVec.ofNat 12 k ≠ head := by
  bv_omega

/-- The position after a whole distance is the leading index. -/
theorem add_sub_toNat : tail + BitVec.ofNat 12 (head - tail).toNat = head := by
  bv_omega

/-- Counting from the next position on. -/
theorem succ_add_ofNat (k : Nat) : tail + 1#12 + BitVec.ofNat 12 k = tail + BitVec.ofNat 12 (k + 1) := by
  bv_omega

end

/-! ## The moves of the ring -/

/-- What a step can do to the ring: nothing, PUT's store, a release, or a synchroniser's copy. -/
inductive RingMove (r : Ring) : Ring → Prop
  | stays : RingMove r r
  | stores (b : Byte) (room : r.head + 1#12 ≠ r.tailW) :
    RingMove r { r with head := r.head + 1#12, buf := Memory.store r.buf r.head.toNat b }
  | releases (avail : r.headR ≠ r.tail) : RingMove r { r with tail := r.tail + 1#12 }
  | syncsHead : RingMove r { r with headR := r.head }
  | syncsTail : RingMove r { r with tailW := r.tail }

/-- A micro-step of the W domain leaves the ring or stores a byte in it. -/
theorem MicroStepW.ringMove {s t : State} (m : MicroStepW s t) : RingMove s.ring t.ring := by
  cases m with
  | ring h | rxbyteX2 h =>
    cases h with
    | answer => exact .stays
    | store b _ room => exact .stores b room
  | _ => exact .stays

/-- A micro-step of the R domain leaves the ring or releases a byte of it. -/
theorem MicroStepR.ringMove {s t : State} {i : Instr} (m : MicroStepR s i t) : RingMove s.ring t.ring := by
  cases m with
  | ring _ h | egressE8 _ _ h | egressE8End h =>
    cases h with
    | answer => exact .stays
    | release _ avail => exact .releases avail
  | baud _ h | svcS1 _ h => cases h <;> exact .stays
  | _ => exact .stays

/-- A step outside the two domains leaves the ring or copies an index. -/
theorem OutsideStep.ringMove {s t : State} (h : OutsideStep s t) : RingMove s.ring t.ring := by
  cases h with
  | syncH => exact .syncsHead
  | syncT => exact .syncsTail
  | _ => exact .stays

/-- A step of the W domain begins with the ring as it is. -/
theorem StartW.ring_eq {s x : State} (h : StartW s x) : x.ring = s.ring := by
  cases h with
  | harness | busy => rfl
  | word => obtain ⟨-, -, -, h⟩ | ⟨-, -, h⟩ | h := handlerTransition_cases (beginStep s) <;> rw [h] <;> rfl

/-- Every step makes one of the five moves. -/
theorem ringMove_of_step {s t : State} (h : step s = .next t) : RingMove s.ring t.ring := by
  cases stepCases_of_step h with
  | outside o => exact o.ringMove
  | w hx m => exact hx.ring_eq ▸ m.ringMove
  | r hx m =>
    have e := congrArg (·.ring) hx.architectural_eq
    exact e ▸ m.ringMove

/-! ## The storage's form (R60) -/

/-- Every move keeps the canonical form. -/
theorem RingMove.wf {r q : Ring} (m : RingMove r q) (h : Memory.wf r.buf) : Memory.wf q.buf := by
  cases m with
  | stores b _ => exact wf_store b h (index_lt_capacity r.head)
  | _ => exact h

/-- Settles O53: of the five moves of the ring only PUT's writes the storage, at an index below `C`. -/
theorem storageStaysCanonical : Obligations.StorageStaysCanonical :=
  fun _ _ hwf h => (ringMove_of_step h).wf hwf

/-! ## The ring invariant (R22, R72) -/

/-- The ring invariant with its bound as a number (R72). -/
theorem ringInv_iff {s : State} : RingInv s ↔ lagTail s + seen s + unseen s ≤ 4095 := Iff.rfl

/-- Where the ring invariant holds, the resident bytes are those the consumer sees and those it does not see yet. -/
theorem RingInv.occupancy_eq {s : State} (h : RingInv s) : occupancy s = seen s + unseen s := by
  have hle : seen s + unseen s ≤ 4095 := by have := ringInv_iff.1 h; omega
  exact sub_toNat_add_sub_toNat _ _ _ hle

/-- The consumer sees at most the resident bytes. -/
theorem RingInv.seen_le {s : State} (h : RingInv s) : seen s ≤ occupancy s := by
  rw [h.occupancy_eq]
  exact Nat.le_add_right _ _

/-- At most `C - 1` bytes are resident (R22). -/
theorem RingInv.occupancy_le {s : State} (h : RingInv s) : occupancy s ≤ 4095 := by
  have := ringInv_iff.1 h
  have := h.occupancy_eq
  omega

/-- Settles O52: the occupancy is `d2 + d3` by R72's bound, and its two ends are index arithmetic. -/
theorem occupancyFollowsFromTheRingInvariant : Obligations.OccupancyFollowsFromTheRingInvariant :=
  fun _ h => ⟨h.occupancy_eq, h.occupancy_le, sub_toNat_eq_zero_iff _ _, sub_toNat_eq_last_iff _ _⟩

/-- The free cells that the producer may fill end at `tail_w`: `d1 + d2 + d3` is its distance from `head`. -/
theorem RingInv.sub_tailW {s : State} (h : RingInv s) :
    (s.ring.head - s.ring.tailW).toNat = lagTail s + seen s + unseen s := by
  have hle : lagTail s + occupancy s ≤ 4095 := by
    have := ringInv_iff.1 h
    have := h.occupancy_eq
    omega
  rw [Nat.add_assoc, ← h.occupancy_eq]
  exact sub_toNat_add_sub_toNat _ _ _ hle

/-- Where the producer sees room, the ring invariant is short of its bound (R111). -/
theorem RingInv.lt_of_room {s : State} (h : RingInv s) (room : s.ring.head + 1#12 ≠ s.ring.tailW) :
    lagTail s + seen s + unseen s < 4095 := by
  refine lt_of_le_of_ne (ringInv_iff.1 h) ?_
  rw [← h.sub_tailW]
  exact mt (sub_toNat_eq_last_iff _ _).1 room

/-- Every move keeps the ring invariant (R72). -/
theorem RingMove.ringInv {s t : State} (m : RingMove s.ring t.ring) (h : RingInv s) : RingInv t := by
  have hle := ringInv_iff.1 h
  have hroom := h.lt_of_room
  have hocc := h.occupancy_eq
  rw [ringInv_iff]
  simp only [lagTail, seen, unseen, occupancy] at *
  generalize t.ring = q at *
  cases m with
  | stays => exact h
  | stores _ room =>
    have hlt := hroom room
    have hne : s.ring.head + 1#12 ≠ s.ring.headR := succ_ne_of_sub_lt _ _ (by omega)
    have := succ_sub_toNat _ _ hne
    dsimp only
    omega
  | releases avail =>
    have hone := sub_succ_toNat _ _ avail
    have hne : s.ring.tail + 1#12 ≠ s.ring.tailW := succ_ne_of_sub_lt _ _ (by omega)
    have := succ_sub_toNat _ _ hne
    dsimp only
    omega
  | syncsHead =>
    dsimp only
    rw [BitVec.sub_self, BitVec.toNat_zero]
    omega
  | syncsTail =>
    dsimp only
    rw [BitVec.sub_self, BitVec.toNat_zero]
    omega

/-! ## The resident cells (R73) -/

/-- No move changes what the list says of a resident cell (R73 a). -/
theorem RingMove.lookup_resident {s t : State} {k : Nat} (m : RingMove s.ring t.ring) (hk : k < occupancy s) :
    Memory.lookup t.ring.buf (s.ring.tail + BitVec.ofNat Config.AW k).toNat =
      Memory.lookup s.ring.buf (s.ring.tail + BitVec.ofNat Config.AW k).toNat := by
  have hne := add_ne_of_lt_sub _ _ hk
  generalize t.ring = q at *
  cases m with
  | stores b _ => exact lookup_store_other _ b fun e => hne (BitVec.eq_of_toNat_eq e)
  | _ => rfl

/-- No move changes a resident byte (R73 a). -/
theorem RingMove.memRead_resident {s t : State} {k : Nat} (m : RingMove s.ring t.ring) (hk : k < occupancy s) :
    memRead t (s.ring.tail + BitVec.ofNat Config.AW k) = memRead s (s.ring.tail + BitVec.ofNat Config.AW k) := by
  simp only [memRead, m.lookup_resident hk]

/-- Where the consumer sees a byte, the ring is not empty (R72, R113). -/
theorem RingInv.head_ne_tail {s : State} (h : RingInv s) (avail : s.ring.headR ≠ s.ring.tail) :
    s.ring.head ≠ s.ring.tail := by
  refine mt (sub_toNat_eq_zero_iff _ _).2 (Nat.ne_of_gt (Nat.lt_of_lt_of_le ?_ h.seen_le))
  exact Nat.pos_of_ne_zero (mt (sub_toNat_eq_zero_iff _ _).1 avail)

/-- Every move keeps the resident cells written: a store writes the cell it adds, a release takes the first away
(R73 c). -/
theorem RingMove.written {s t : State} (m : RingMove s.ring t.ring) (h : RingInv s) (hw : Written s) : Written t := by
  intro k hk
  have hold := fun j hj => (congrArg Option.isSome (m.lookup_resident (k := j) hj)).trans (hw j hj)
  simp only [occupancy] at hk hold
  generalize t.ring = q at *
  cases m with
  | stays | syncsHead | syncsTail => exact hold k hk
  | stores b room =>
    obtain hlt | hlast : k < (s.ring.head - s.ring.tail).toNat ∨ k = (s.ring.head - s.ring.tail).toNat := by
      have hlt := h.lt_of_room room
      have hocc := h.occupancy_eq
      have := succ_sub_toNat _ _ (succ_ne_of_sub_lt s.ring.head s.ring.tail (show occupancy s < 4095 by omega))
      dsimp only at hk
      omega
    · exact hold k hlt
    · dsimp only
      rw [hlast, add_sub_toNat, lookup_store_same]
      rfl
  | releases avail =>
    dsimp only at hk ⊢
    rw [succ_add_ofNat]
    exact hold (k + 1) (sub_succ_toNat _ _ (h.head_ne_tail avail) ▸ Nat.succ_lt_succ hk)

end Sys2Proof.Machine
end

section
/-! PROOFS. Every step keeps the machine's invariant. A step that is not the R domain's leaves its registers alone, so that
only the ring and the receive FIFO matter; a micro-step of the R domain is taken apart by what `Inv` is made of. -/

namespace Sys2Proof.Machine

/-! ## What each position relies on -/

/-- What a position of the R domain relies on outlives any step that leaves the R domain's registers, hides no byte
from the consumer and changes none it sees. -/
theorem AtStep.mono {s t : State} {u : UStep} (h : AtStep s u) (hr : registersR t = registersR s)
    (hseen : seen s ≤ seen t)
    (hmem : ∀ k < seen s,
      memRead t (s.ring.tail + BitVec.ofNat Config.AW k) = memRead s (s.ring.tail + BitVec.ofNat Config.AW k)) :
    AtStep t u := by
  have htail : t.ring.tail = s.ring.tail := congrArg (·.ring.tail) hr
  have hcopied {n : Nat} (hn : n ≤ seen s) (hc : Copied s n) : Copied { registersR s with ring := t.ring } n :=
    fun k hk => by
      rw [show t.ring.tail = s.ring.tail from htail]
      exact (hc k hk).trans (hmem k (hk.trans_le hn)).symm
  show AtStep { registersR t with ring := t.ring } u
  rw [hr]
  cases u with
  | e2 =>
    obtain ⟨hconn, ha⟩ := h
    exact ⟨hconn, ha.trans hseen⟩
  | e3 =>
    obtain ⟨hconn, ha, hs⟩ := h
    exact ⟨hconn, ha.trans hseen, hs⟩
  | e4 =>
    obtain ⟨hconn, hk, hrest⟩ := h
    exact ⟨hconn, hk.trans hseen, hrest⟩
  | e5 i =>
    obtain ⟨hconn, hk, hspace, hi, hgot, hc⟩ := h
    exact ⟨hconn, hk.trans hseen, hspace, hi, hgot, hcopied (hi.le.trans hk) hc⟩
  | e6 =>
    obtain ⟨hconn, hgot, hne, hle, hspace, hc⟩ := h
    exact ⟨hconn, hgot, hne, hle.trans hseen, hspace, hcopied hle hc⟩
  | e7 =>
    obtain ⟨hacc, hne, hle⟩ := h
    exact ⟨hacc, hne, hle.trans hseen⟩
  | e8 j =>
    obtain ⟨hj, hle⟩ := h
    exact ⟨hj, hle.trans hseen⟩
  | _ => exact h

/-! ## Steps that leave the R domain's registers -/

/-- A move of the ring that leaves `tail` hides no byte from the consumer. -/
theorem RingMove.seen_le {s t : State} (m : RingMove s.ring t.ring) (h : RingInv s)
    (htail : t.ring.tail = s.ring.tail) : seen s ≤ seen t := by
  have hle := h.seen_le
  simp only [seen, occupancy] at *
  generalize t.ring = q at *
  cases m with
  | stays | stores | syncsTail => exact le_rfl
  | releases => simp at htail
  | syncsHead => exact hle

/-- A step that leaves the R domain's registers, keeps the handler to its interrupt and the FIFO to its depth, and leaves
RXBYTE the byte it saw, keeps the invariant. -/
theorem Inv.of_registersR_eq {s t : State} (h : Inv s) (m : RingMove s.ring t.ring)
    (hr : registersR t = registersR s) (hisr : t.isrState = .drain → s.irqEn = true)
    (hrx : t.uart.rx.length ≤ Config.UART_FIFO_DEPTH) (hw : AtWStep t t.wstep) : Inv t where
  wf := m.wf h.wf
  ring := m.ringInv h.ring
  written := m.written h.ring h.written
  ranges := by
    obtain ⟨hk, hmode, hegK, hegGot, hegAcc, hinN, hegBuf, hinBuf, hspace, -⟩ := h.ranges
    show Ranges { registersR t with uart := t.uart }
    rw [hr]
    exact ⟨hk, hmode, hegK, hegGot, hegAcc, hinN, hegBuf, hinBuf, hspace, hrx⟩
  booted := by
    obtain ⟨hirq, -, hopen, hlegal, hmirror⟩ := h.booted
    show Booted { registersR t with isrState := t.isrState }
    rw [hr]
    exact ⟨hirq, hisr, hopen, hlegal, hmirror⟩
  atStep := by
    have hu : t.ustep = s.ustep := congrArg (·.ustep) hr
    rw [hu]
    exact h.atStep.mono hr (m.seen_le h.ring (congrArg (·.ring.tail) hr)) fun k hk =>
      m.memRead_resident (hk.trans_le h.ring.seen_le)
  atWStep := hw

/-- In a good state the handler runs only while its interrupt is enabled (R222). -/
theorem Inv.irqEn_of_drain {s : State} (h : Inv s) (hd : s.isrState = .drain) : s.irqEn = true := by
  obtain ⟨-, hisr, -⟩ := h.booted
  exact hisr hd

/-- In a good state the receive FIFO is not deeper than it is (R240). -/
theorem Inv.rx_length_le {s : State} (h : Inv s) : s.uart.rx.length ≤ Config.UART_FIFO_DEPTH := by
  obtain ⟨-, -, -, -, -, -, -, -, -, hrx⟩ := h.ranges
  exact hrx

/-- The invariant speaks of the block's registers and the collaborators' state only. -/
theorem Inv.congr {s t : State} (h : Inv s) (e : architectural t = architectural s) : Inv t := by
  have ha : Inv (architectural s) := ⟨h.wf, h.ring, h.written, h.ranges, h.booted, h.atStep, h.atWStep⟩
  rw [← e] at ha
  exact ⟨ha.wf, ha.ring, ha.written, ha.ranges, ha.booted, ha.atStep, ha.atWStep⟩

/-- The handler's transition keeps the invariant (R224, R226). -/
theorem Inv.handlerTransition {s : State} (h : Inv s) : Inv (handlerTransition s) := by
  obtain ⟨-, hirq, -, e⟩ | ⟨-, -, e⟩ | e := handlerTransition_cases s <;> rw [e]
  · exact h.of_registersR_eq .stays rfl (fun _ => hirq) h.rx_length_le h.atWStep
  · exact h.of_registersR_eq .stays rfl nofun h.rx_length_le h.atWStep
  · exact h

/-- A byte in the receive FIFO is all that a position of RXBYTE relies on (R141). -/
theorem AtWStep.of_rx_ne_nil {s : State} {u : WStep} (h : s.uart.rx ≠ []) : AtWStep s u := by
  cases u with
  | x1 => exact h
  | _ => trivial

/-- A step outside the two domains keeps the invariant. -/
theorem OutsideStep.inv {s t : State} (o : OutsideStep s t) (h : Inv s) : Inv t := by
  have hr := o.registers_eq.2
  have hring := o.ringMove
  cases o with
  | rx _ _ room =>
    refine h.of_registersR_eq hring hr h.irqEn_of_drain ?_ ?_
    · simpa using Nat.succ_le_of_lt room
    · exact AtWStep.of_rx_ne_nil (List.append_ne_nil_of_right_ne_nil _ (List.cons_ne_nil _ _))
  | _ => exact h.of_registersR_eq hring hr h.irqEn_of_drain h.rx_length_le h.atWStep

/-- A micro-step of the W domain leaves `isr_state` (R230). -/
theorem MicroStepW.isrState_eq {s t : State} (m : MicroStepW s t) : t.isrState = s.isrState := by
  cases m with
  | ring h | rxbyteX2 h => cases h <;> rfl
  | _ => rfl

/-- A micro-step of the W domain adds nothing to the receive FIFO. -/
theorem MicroStepW.rx_length_le {s t : State} (m : MicroStepW s t) : t.uart.rx.length ≤ s.uart.rx.length := by
  cases m with
  | ring h | rxbyteX2 h => cases h <;> exact le_rfl
  | rxbyteX1 hrx => simp [hrx]
  | _ => exact le_rfl

/-- A micro-step of the W domain leads to a position of RXBYTE that finds what it relies on (R141). -/
theorem MicroStepW.atWStep {s t : State} (m : MicroStepW s t) (h : AtWStep s s.wstep) : AtWStep t t.wstep := by
  cases m with
  | ring hq => cases hq <;> exact h
  | nop | touch => exact h
  | rxbyteX0 avail => exact avail
  | rxbyteX1 | rxbyteX2 | rxbyteX3 => exact trivial

/-- A micro-step of the W domain keeps the invariant. -/
theorem MicroStepW.inv {s t : State} (m : MicroStepW s t) (h : Inv s) : Inv t :=
  h.of_registersR_eq m.ringMove m.registersR_eq (fun hd => h.irqEn_of_drain (m.isrState_eq.symm.trans hd))
    (m.rx_length_le.trans h.rx_length_le) (m.atWStep h.atWStep)

/-- A step of the W domain begins in a good state. -/
theorem StartW.inv {s x : State} (hx : StartW s x) (h : Inv s) : Inv x := by
  cases hx with
  | harness | busy => exact h.congr rfl
  | word => exact (h.congr (t := beginStep s) rfl).handlerTransition.congr rfl

/-! ## The R domain: legal values -/

/-- The end of an operation keeps the registers legal: a successor of a legal `sched_step` is legal (R24). -/
theorem Ranges.finishR {s : State} {k : BitVec 3} (h : Ranges s) (hk : k.toNat ≤ 5) : Ranges (finishR k s) := by
  obtain ⟨hle, hrest⟩ := h
  have hnext : ∀ k : BitVec 3, k.toNat ≤ 5 → (nextSchedStep k).toNat ≤ 5 := by decide
  refine ⟨?_, hrest⟩
  simp only [finishR_fields]
  split
  · exact hnext k hk
  · exact hle

/-- A count of at most 64 fits its 7 bits (R37). -/
theorem count_toNat {n : Nat} (h : n ≤ 64) : (BitVec.ofNat 7 n).toNat = n := by
  rw [BitVec.toNat_ofNat]
  exact Nat.mod_eq_of_lt (by omega)

/-- A count is positive exactly where it is not the word 0. -/
theorem count_pos_iff {n : Count} : 0 < n.toNat ↔ n ≠ 0#7 := by
  bv_omega

/-- `usb.write` uses up space (R246). -/
theorem Ranges.usbWrite {s : State} (h : Ranges s) (l : List Byte) : Ranges (usbWrite s l) := by
  obtain ⟨hk, hmode, hegK, hegGot, hegAcc, hinN, hegBuf, hinBuf, hspace, hrx⟩ := h
  exact ⟨hk, hmode, hegK, hegGot, hegAcc, hinN, hegBuf, hinBuf, (Nat.sub_le _ _).trans hspace, hrx⟩

/-- Every mode the evaluation selects is one of R30's three codes. -/
theorem evaluate_mode_le (s : State) : (evaluate s).mode.toNat ≤ 2 := by
  obtain ⟨-, e⟩ | ⟨-, -, e⟩ | ⟨-, -, e⟩ := evaluate_cases s <;> rw [e]
  · exact Nat.zero_le 2
  · exact Nat.le_succ 1
  · exact Nat.le_refl 2

/-- A micro-step of the R domain keeps the registers legal (R24, R30, R37, R240, R244). -/
theorem MicroStepR.ranges {s t : State} {i : Instr} (m : MicroStepR s i t) (h : Ranges s) : Ranges t := by
  have ⟨hk, hmode, hegK, hegGot, hegAcc, hinN, hegBuf, hinBuf, hspace, hrx⟩ := h
  cases m with
  | ring _ hq | egressE8 _ _ hq => cases hq <;> exact h
  | egressE8End hq => cases hq <;> exact Ranges.finishR h (by decide)
  | baud _ hq => cases hq <;> exact h
  | svcS1 _ hq => cases hq <;> exact Ranges.finishR h (by decide)
  | ends k hk => exact h.finishR hk.2
  | svcS0 =>
    obtain ⟨-, e, -⟩ := usbServiceCall_usb s
    refine ⟨hk, hmode, hegK, hegGot, hegAcc, hinN, hegBuf, hinBuf, ?_, hrx⟩
    exact e.trans_le (max_le hspace (min_le_right _ _))
  | bannerB2 => exact h.usbWrite _
  | bannerB4 | egressE7End | ingressI4 | bootT2 => exact Ranges.finishR h (by decide)
  | egressE3 =>
    refine ⟨hk, hmode, ?_, Nat.zero_le _, hegAcc, hinN, hegBuf, hinBuf, hspace, hrx⟩
    exact (egressTarget_toNat s).trans_le ((min_le_right _ _).trans (min_le_right _ _))
  | @egressE5 j =>
    have hj : j.toNat + 1 ≤ 64 := j.isLt
    refine ⟨hk, hmode, hegK, (count_toNat hj).trans_le hj, hegAcc, hinN, ?_, hinBuf, hspace, hrx⟩
    exact List.length_set.trans hegBuf
  | egressE6 =>
    obtain ⟨-, -, -, -, -, -, -, -, hspace', -⟩ := h.usbWrite (egressBytes s)
    have hacc := min_le_right (usbAccepted s (egressBytes s).length) s.scratch.egGot.toNat
    have h64 := hacc.trans hegGot
    exact ⟨hk, hmode, hegK, hegGot, (count_toNat h64).trans_le h64, hinN, hegBuf, hinBuf, hspace', hrx⟩
  | ingressI2 =>
    have h64 : (s.usb.rx.take 64).length ≤ 64 := List.length_take_le _ _
    refine ⟨hk, hmode, hegK, hegGot, hegAcc, (count_toNat h64).trans_le h64, hegBuf, ?_, hspace, hrx⟩
    show (s.usb.rx.take 64 ++ s.scratch.inBuf.drop (s.usb.rx.take 64).length).length = 64
    rw [List.length_append, List.length_drop, hinBuf]
    exact Nat.add_sub_cancel' h64
  | indicL4 =>
    have hmode' := evaluate_mode_le s
    exact Ranges.finishR ⟨hk, hmode', hegK, hegGot, hegAcc, hinN, hegBuf, hinBuf, hspace, hrx⟩ (by decide)
  | _ => exact h

/-! ## The R domain: what BOOT establishes -/

/-- The end of an operation other than BOOT neither reaches 0 nor leaves it (R24). -/
theorem finishR_schedStep_ne_zero_iff {k : BitVec 3} (hk : k ≠ 0#3 ∧ k.toNat ≤ 5) (s : State) :
    (finishR k s).schedStep ≠ 0#3 ↔ s.schedStep ≠ 0#3 := by
  have hnext : ∀ k : BitVec 3, k ≠ 0#3 ∧ k.toNat ≤ 5 → nextSchedStep k ≠ 0#3 := by decide
  simp only [finishR_fields]
  split
  next he => exact iff_of_true (hnext k hk) (he ▸ hk.1)
  next => rfl

/-- The end of an operation other than BOOT keeps BOOT's facts. -/
theorem Booted.finishR {s : State} {k : BitVec 3} (h : Booted s) (hk : k ≠ 0#3 ∧ k.toNat ≤ 5) :
    Booted (finishR k s) := by
  obtain ⟨hirq, hrest⟩ := h
  exact ⟨hirq.trans (finishR_schedStep_ne_zero_iff hk s).symm, hrest⟩

/-- BAUD keeps BOOT's facts: what it sets is legal, and mirrored (R31, R171). -/
theorem BaudStep.booted {s q : State} (hq : BaudStep s q) (h : Booted s) : Booted q := by
  cases hq with
  | ignore => exact h
  | set r legal =>
    obtain ⟨hirq, hisr, hopen, -, -⟩ := h
    exact ⟨hirq, hisr, hopen, fun _ => legal, rfl⟩

/-- BOOT's T2 starts the main loop (R24, R205). -/
theorem bootT2_schedStep {s : State} (hk : s.schedStep = 0#3) : (bootT2 s).schedStep = 1#3 := by
  simp [bootT2, hk, nextSchedStep]

/-- A micro-step of the R domain keeps BOOT's facts; BOOT's own establish them (R32, R205). -/
theorem MicroStepR.booted {s t : State} {i : Instr} (m : MicroStepR s i t) (h : Booted s) (hat : AtStep s s.ustep) :
    Booted t := by
  cases m with
  | ring _ hq | egressE8 _ _ hq => cases hq <;> exact h
  | egressE8End hq => cases hq <;> exact Booted.finishR h (by decide)
  | baud _ hq => exact hq.booted h
  | svcS1 _ hq => exact (hq.booted h).finishR (by decide)
  | ends k hk => exact h.finishR hk
  | bannerB4 | egressE7End | ingressI4 | indicL4 => exact Booted.finishR h (by decide)
  | bootT0 _ hk =>
    obtain ⟨hirq, hisr, -⟩ := h
    have hoff (hon : s.irqEn = true) : False := hirq.1 hon hk
    exact ⟨hirq, hisr, fun hon => (hoff hon).elim, fun hon => (hoff hon).elim, rfl⟩
  | bootT1 =>
    obtain ⟨hirq, hisr, hopen, hlegal, hmirror⟩ := h
    exact ⟨hirq, hisr, fun hon => ⟨(hopen hon).1, rfl⟩, hlegal, hmirror⟩
  | bootT2 hu =>
    rw [hu] at hat
    obtain ⟨hk, hframe, hcfg, hfifo⟩ := hat
    obtain ⟨-, -, -, -, hmirror⟩ := h
    refine ⟨iff_of_true rfl (by simp [bootT2_schedStep hk]), fun _ => rfl, fun _ => ⟨hframe, hfifo⟩, fun _ => ?_,
      hmirror⟩
    show 1 ≤ s.baudCfg.toNat ∧ s.baudCfg.toNat ≤ Config.BAUD_MAX.toNat
    rw [hcfg]
    decide
  | _ => exact h

/-! ## The R domain: what each position relies on -/

/-- AVAIL's count, as EGRESS keeps it, is what the consumer sees (R116, R151 E1). -/
theorem availOp_data_toNat (s : State) : ((availOp s).data.zeroExtend Config.AW).toNat = seen s := by
  simp [availOp, countResponse, visible, indexDiff, seen]

/-- E5 appends the next byte of the ring to what was copied (R154). -/
theorem Copied.egressCopy {s : State} {i : BitVec 6} (h : Copied s i.toNat) (hbuf : s.scratch.egBuf.length = 64) :
    Copied (egressCopy i s) (i.toNat + 1) := by
  intro k hk
  show (s.scratch.egBuf.set i.toNat (memRead s (s.ring.tail + i.zeroExtend 12))).getD k 0#8 =
    memRead s (s.ring.tail + BitVec.ofNat 12 k)
  obtain hlt | rfl : k < i.toNat ∨ k = i.toNat := by omega
  · rw [← h k hlt]
    simp [List.getD_eq_getElem?_getD, List.getElem?_set_ne hlt.ne']
  · have hi : i.toNat < s.scratch.egBuf.length := hbuf ▸ i.isLt
    simp [List.getD_eq_getElem?_getD, List.getElem?_set_self hi]

/-- After E5 copied the last byte wanted, or another, the next position finds what it relies on (R151, R154). -/
theorem egressCopy_atStep {s : State} {i : BitVec 6} (h : Inv s) (hu : s.ustep = .e5 i) :
    AtStep (egressCopy i s) (egressCopy i s).ustep := by
  have hat := h.atStep
  rw [hu] at hat
  obtain ⟨hconn, hk, hspace, hi, hgot, hc⟩ := hat
  obtain ⟨-, -, hegK, -, -, -, hbuf, -⟩ := h.ranges
  have hc' := hc.egressCopy hbuf
  have hegGot : (egressCopy i s).scratch.egGot.toNat = i.toNat + 1 := count_toNat (hi.trans_le hegK)
  by_cases hmore : i.toNat + 1 < s.scratch.egK.toNat
  · have hnext : (i + 1#6).toNat = i.toNat + 1 := by
      simp only [CHUNK_eq] at hegK
      bv_omega
    have hstep : (egressCopy i s).ustep = .e5 (i + 1#6) := if_pos hmore
    rw [hstep]
    exact ⟨hconn, hk, hspace, hnext.trans_lt hmore, hegGot.trans hnext.symm, hnext ▸ hc'⟩
  · have hlast : (egressCopy i s).scratch.egGot.toNat = s.scratch.egK.toNat := by omega
    have hstep : (egressCopy i s).ustep = .e6 := if_neg hmore
    rw [hstep]
    exact ⟨hconn, BitVec.eq_of_toNat_eq hlast, count_pos_iff.1 (Nat.zero_lt_of_lt hi), hlast.trans_le hk,
      hlast.trans_le hspace, hegGot ▸ hc'⟩

/-- Where EGRESS offers no more than fits, all of it is accepted (R155, R246). -/
theorem egressE6_egAcc {s : State} (hbuf : s.scratch.egBuf.length = 64) (hegGot : s.scratch.egGot.toNat ≤ 64)
    (hspace : s.scratch.egGot.toNat ≤ s.usb.space) : (egressE6 s).scratch.egAcc = s.scratch.egGot := by
  have hlen : (egressBytes s).length = s.scratch.egGot.toNat := by
    rw [egressBytes_length, hbuf, min_eq_left hegGot]
  show BitVec.ofNat 7 (min (min (egressBytes s).length s.usb.space) s.scratch.egGot.toNat) = _
  rw [hlen, min_eq_left hspace, min_self, BitVec.ofNat_toNat, BitVec.setWidth_eq]

/-- After one ADV of EGRESS's loop enough bytes are left for the others (R151 E8, R156). -/
theorem RingStepR.seen_le {s q : State} {w : Word} (hq : RingStepR (presentR s w) q) : seen s ≤ seen q + 1 := by
  cases hq with
  | answer => exact Nat.le_succ _
  | release _ avail => exact (sub_succ_toNat _ _ avail).ge

/-- GET, PEEK, ADV and AVAIL write no working register. -/
theorem RingStepR.scratch_eq {s q : State} (hq : RingStepR s q) : q.scratch = s.scratch := by
  cases hq <;> rfl

/-- A position inside the E8 loop: after the ADV that is not the last (R151). -/
theorem egressE8_atStep {s q : State} {j : Count} (hj : j.toNat + 1 < s.scratch.egAcc.toNat)
    (hle : s.scratch.egAcc.toNat - j.toNat ≤ seen s) (hq : RingStepR (presentR s (encode .adv)) q) :
    AtStep { q with ustep := .e8 (j + 1#7) } (.e8 (j + 1#7)) := by
  have hnext : (j + 1#7).toNat = j.toNat + 1 := by bv_omega
  have hscratch : q.scratch = s.scratch := hq.scratch_eq
  have hseen := hq.seen_le
  show (j + 1#7).toNat < q.scratch.egAcc.toNat ∧ q.scratch.egAcc.toNat - (j + 1#7).toNat ≤ seen q
  rw [hnext, hscratch]
  omega

/-- After a read that found host bytes the write begins with the first (R161). -/
theorem ingressI2_atStep {s : State} (hrx : s.usb.rx ≠ []) : AtStep (ingressI2 s) (ingressI2 s).ustep := by
  have h64 : (s.usb.rx.take 64).length ≤ 64 := List.length_take_le _ _
  have hlen : (usbRead s).scratch.inN.toNat = (s.usb.rx.take 64).length := count_toNat h64
  have hpos : 0 < (usbRead s).scratch.inN.toNat := by
    rw [hlen, List.length_take]
    exact Nat.lt_min.2 ⟨by decide, List.length_pos_of_ne_nil hrx⟩
  have hstep : (ingressI2 s).ustep = .i3 0#6 := if_neg (count_pos_iff.1 hpos)
  rw [hstep]
  exact hpos

/-- After a byte of INGRESS's write the next is in the buffer, or the write was not empty (R161). -/
theorem ingressI3_atStep {s : State} {j : BitVec 6} (hj : j.toNat < s.scratch.inN.toNat)
    (hinN : s.scratch.inN.toNat ≤ 64) {t : State} (hscratch : t.scratch = s.scratch) :
    AtStep t (if j.toNat + 1 < s.scratch.inN.toNat then .i3 (j + 1#6) else .i4) := by
  split
  next hmore =>
    have hnext : (j + 1#6).toNat = j.toNat + 1 := by bv_omega
    show (j + 1#6).toNat < t.scratch.inN.toNat
    rw [hnext, hscratch]
    exact hmore
  next =>
    show t.scratch.inN ≠ 0#7
    rw [hscratch]
    exact count_pos_iff.1 (Nat.zero_lt_of_lt hj)

/-- A micro-step of the R domain leads to a position that finds what it relies on (R151, R154, R155, R161, R191, R205). -/
theorem MicroStepR.atStep {s t : State} {i : Instr} (m : MicroStepR s i t) (h : Inv s) : AtStep t t.ustep := by
  have hat := h.atStep
  obtain ⟨-, -, hegK, hegGot, -, hinN, hbuf, -⟩ := h.ranges
  cases m with
  | nop | ingressI3Wait => exact hat
  | ring hu hq =>
    have e : t.ustep = .idle := by cases hq <;> exact hu
    rw [e]
    trivial
  | @baud q hu hq =>
    have e : q.ustep = .idle := by cases hq <;> exact hu
    show AtStep _ q.ustep
    rw [e]
    trivial
  | touch hu =>
    show AtStep _ s.ustep
    rw [hu]
    trivial
  | ends | svcS0 | svcS1 | bannerB4 | egressE7End | egressE8End | ingressI4 | indicL0 | indicL1 | indicL2 | indicL3
  | indicL4 | bootT2 => exact trivial
  | bannerB0 unsent => exact unsent
  | bannerB1 hu conn =>
    rw [hu] at hat
    exact ⟨hat, conn⟩
  | bannerB2 hu =>
    rw [hu] at hat
    exact hat.1
  | bannerB3 hu =>
    rw [hu] at hat
    exact hat
  | egressE0 conn => exact conn
  | egressE1 hu =>
    rw [hu] at hat
    exact ⟨hat, (availOp_data_toNat (presentR s _)).le⟩
  | egressE2 hu =>
    rw [hu] at hat
    obtain ⟨hconn, ha⟩ := hat
    exact ⟨hconn, ha, rfl⟩
  | egressE3 hu =>
    rw [hu] at hat
    obtain ⟨hconn, ha, hs⟩ := hat
    have htarget := egressTarget_toNat s
    refine ⟨hconn, ?_, ?_, rfl⟩
    · exact htarget.trans_le ((min_le_left _ _).trans ha)
    · exact htarget.trans_le ((min_le_right _ _).trans ((min_le_left _ _).trans hs.le))
  | egressE4 hu nonzero =>
    rw [hu] at hat
    obtain ⟨hconn, hk, hspace, hgot⟩ := hat
    have hpos : 0 < s.scratch.egK.toNat := count_pos_iff.2 nonzero
    exact ⟨hconn, hk, hspace, hpos, by rw [hgot]; rfl, nofun⟩
  | egressE5 hu => exact egressCopy_atStep h hu
  | egressE5End r hu none =>
    rw [hu] at hat
    obtain ⟨-, hk, -, hi, -⟩ := hat
    exact absurd (hi.trans_le hk) none.not_gt
  | egressE6 hu =>
    rw [hu] at hat
    obtain ⟨-, hgot, hne, hle, hspace, -⟩ := hat
    have hacc := egressE6_egAcc hbuf hegGot hspace
    refine ⟨hacc, ?_, ?_⟩
    · rw [hacc, hgot]
      exact hne
    · rw [hacc]
      exact hle
  | egressE7 hu nonzero =>
    rw [hu] at hat
    obtain ⟨-, -, hle⟩ := hat
    exact ⟨count_pos_iff.2 nonzero, hle⟩
  | egressE8 hu more hq =>
    rw [hu] at hat
    obtain ⟨-, hle⟩ := hat
    exact egressE8_atStep more hle hq
  | ingressI0 conn => exact conn
  | ingressI1 hu avail =>
    rw [hu] at hat
    exact ⟨hat, avail⟩
  | ingressI2 hu =>
    rw [hu] at hat
    exact ingressI2_atStep hat.2
  | ingressI3 hu =>
    rw [hu] at hat
    exact ingressI3_atStep hat hinN rfl
  | bootT0 _ hk => exact ⟨hk, rfl, rfl⟩
  | bootT1 hu =>
    rw [hu] at hat
    obtain ⟨hk, hframe, hcfg⟩ := hat
    exact ⟨hk, hframe, hcfg, rfl⟩

/-! ## Every step -/

/-- A micro-step of the R domain keeps the invariant. -/
theorem MicroStepR.inv {s t : State} {i : Instr} (m : MicroStepR s i t) (h : Inv s) : Inv t where
  wf := m.ringMove.wf h.wf
  ring := m.ringMove.ringInv h.ring
  written := m.ringMove.written h.ring h.written
  ranges := m.ranges h.ranges
  booted := m.booted h.booted h.atStep
  atStep := m.atStep h
  atWStep := by
    have hw : t.wstep = s.wstep := congrArg (·.wstep) m.registersW_eq
    rw [hw]
    cases hs : s.wstep with
    | x1 =>
      have hat := h.atWStep
      rw [hs] at hat
      exact m.uart_rx_eq.trans_ne hat
    | _ => trivial

/-- Settles O56: a step is one outside the two domains or a micro-step of one of them, and each keeps every part of the
invariant. -/
theorem goodStatesAreKept : Obligations.GoodStatesAreKept := by
  intro s t h hstep
  cases stepCases_of_step hstep with
  | outside o => exact o.inv h
  | w hx m => exact m.inv (hx.inv h)
  | r hx m => exact m.inv (h.congr hx.architectural_eq)

end Sys2Proof.Machine
end

section
/-! PROOFS. The state after reset (R41, R260, R262), what GET and PEEK read in a good state (R73), and where the model
refuses (R99, R205, R246). -/

namespace Sys2Proof.Machine

/-! ## Reset -/

/-- The registers are legal after reset, the USB transmit space being all of the buffer (R24, R30, R37, R279). -/
theorem reset_ranges : Ranges State.reset :=
  ⟨by decide, by decide, by decide, by decide, by decide, by decide, List.length_replicate, List.length_replicate,
    Nat.le_refl _, Nat.zero_le _⟩

/-- Settles O57: after reset the ring is empty, the interrupt is off and no operation is in progress. -/
theorem resetStateIsGood : Obligations.ResetStateIsGood where
  wf := reset_wf
  ring := by decide
  written := nofun
  ranges := reset_ranges
  booted := by decide
  atStep := trivial
  atWStep := trivial

/-- Settles O59: the spec's values are those `State.reset` is written with. -/
theorem resetLeavesTheSpecsValues : Obligations.ResetLeavesTheSpecsValues :=
  ⟨rfl, rfl, rfl, rfl, rfl, rfl, rfl, rfl, rfl, rfl, rfl, rfl, rfl, rfl, rfl, rfl, rfl, rfl⟩

/-! ## What GET and PEEK read (R73) -/

/-- A byte's response as a word: `ok` and `valid` above the byte (R98). -/
theorem responseWord_byte (b : Byte) : responseWord (byteResponse b) = 0x6000#16 ||| b.zeroExtend 16 :=
  (by decide : ∀ b : Byte, responseWord (byteResponse b) = 0x6000#16 ||| b.zeroExtend 16) b

/-- In a good state a cell that the consumer sees is listed, and reads as the byte listed (R73 c). -/
theorem Inv.lookup_of_lt_seen {s : State} {k : Nat} (h : Inv s) (hk : k < seen s) :
    ∃ b, Memory.lookup s.ring.buf (s.ring.tail + BitVec.ofNat Config.AW k).toNat = some b ∧
      memRead s (s.ring.tail + BitVec.ofNat Config.AW k) = b := by
  obtain ⟨b, hb⟩ := Option.isSome_iff_exists.1 (h.written k (hk.trans_le h.ring.seen_le))
  exact ⟨b, hb, by rw [memRead, hb, Option.getD_some]⟩

/-- Settles O55: the cell of GET is the first that the consumer sees, that of PEEK the one at its offset. -/
theorem onlyWrittenCellsAreRead : Obligations.OnlyWrittenCellsAreRead := by
  intro s h
  refine ⟨fun avail => ?get, fun i hi => ?peek⟩
  case get =>
    have hpos : 0 < seen s := Nat.pos_of_ne_zero (mt (sub_toNat_eq_zero_iff _ _).1 avail)
    obtain ⟨b, hb, hread⟩ := h.lookup_of_lt_seen hpos
    rw [BitVec.add_zero] at hb hread
    refine ⟨b, hb, _, rfl, ?_⟩
    obtain ⟨hempty, -⟩ | ⟨-, e⟩ := getOp_cases s
    · exact absurd hempty avail
    · show responseWord (getOp s).1 = _
      rw [e, ← responseWord_byte, hread]
  case peek =>
    obtain ⟨b, hb, hread⟩ := h.lookup_of_lt_seen hi
    rw [BitVec.ofNat_toNat] at hb hread
    refine ⟨b, hb, _, rfl, ?_⟩
    obtain ⟨-, e⟩ | ⟨hnone, -⟩ := peekOp_cases i s
    · show responseWord (peekOp i s) = _
      rw [e, ← responseWord_byte]
      exact congrArg (fun b => responseWord (byteResponse b)) hread
    · exact absurd hi hnone.not_gt

/-! ## Refusals (log 17 to 20) -/

/-- A harness's legal word is refused with the reason the port gives (R99). -/
theorem step_of_harness_refused {s : State} {p : Port} {w : Word} {i : Instr} {r : Refusal}
    (ht : nextTurn s = .harness p w) (hd : decode p w = .ok i) (hr : harnessRefusal p (beginStep s) = some r) :
    step s = .refused r := by
  rw [step_of_harness ht]
  simp only [turnHarness, hd, hr]

/-- The R sequencer has no word at the reserved values of `sched_step` (R24). -/
theorem wordR_of_reserved {s : State} (hk : 6 ≤ s.schedStep.toNat) : wordR s = none := by
  have hne : s.schedStep ≠ 0#3 := fun h0 => by simp [h0] at hk
  simp [wordR, hne, Nat.not_le.2 (Nat.lt_of_succ_le hk)]

/-- Settles O19: each refusal is the branch its rule names. -/
theorem misuseIsRefusedByName : Obligations.MisuseIsRefusedByName := by
  refine ⟨?handler, ?busyW, ?busyR, ?secondBoot, ?banner, ?egress, ?ingress, ?rxbyte, ?reserved⟩
  case handler =>
    intro s w i ht hd hon
    obtain hirq | hisr := hon
    · exact step_of_harness_refused ht hd (by simp [harnessRefusal, hirq])
    · exact step_of_harness_refused ht hd (by simp [harnessRefusal, hisr])
  case busyW =>
    intro s w i ht hd hirq hisr hw
    exact step_of_harness_refused ht hd (by simp [harnessRefusal, hirq, hisr, hw])
  case busyR =>
    intro s w i ht hd hu
    exact step_of_harness_refused ht hd (by simp [harnessRefusal, hu])
  case secondBoot =>
    intro s hu hk
    simp [exec, execBoot, hu, hk]
  case banner =>
    intro s hu hconn
    simp [exec, execBanner, hu, hconn]
  case egress =>
    intro s hu hconn
    simp [exec, execEgress, hu, hconn]
  case ingress =>
    intro s hu hconn
    simp [exec, execIngress, hu, hconn]
  case rxbyte =>
    intro s hw hrx
    simp [exec, execRxbyte, hw, hrx]
  case reserved =>
    intro s ht hu hk
    rw [step_of_agent_r ht]
    have hw : wordR (beginStep s) = none := wordR_of_reserved hk
    simp [turnR, hu, inProgressR, hw]

end Sys2Proof.Machine
end

section
/-! PROOFS. The ring's indices along every step (R70, R71, R72, R73, R76): the invariant, the shadows and their
synchronisers, and the resident bytes, read off the five moves of the ring. -/

namespace Sys2Proof.Machine

/-! ## The ring invariant and the resident bytes (R72, R73) -/

/-- Settles O51: every step is one of the five moves of the ring, and each move keeps `d1 + d2 + d3 <= C - 1`. -/
theorem ringInvariantIsKept : Obligations.RingInvariantIsKept := by
  refine ⟨by decide, fun _ _ h hstep => (ringMove_of_step hstep).ringInv h, fun _ h => ⟨h.occupancy_le, h.seen_le, ?_⟩⟩
  rw [h.occupancy_eq, Nat.add_assoc]
  exact Nat.le_add_left _ _

/-- Settles O54: of the five moves only PUT's writes the storage, at `head`, which holds no resident byte. -/
theorem residentBytesAreNotOverwritten : Obligations.ResidentBytesAreNotOverwritten :=
  fun _ _ _ _ hstep hk => (ringMove_of_step hstep).memRead_resident hk

/-! ## The indices (R76) -/

/-- A move of the ring leaves each index or advances it by one position (R76). -/
theorem RingMove.index_cases {r q : Ring} (m : RingMove r q) :
    (q.head = r.head ∨ q.head = r.head + 1#12) ∧ (q.tail = r.tail ∨ q.tail = r.tail + 1#12) := by
  cases m with
  | stores => exact ⟨.inr rfl, .inl rfl⟩
  | releases => exact ⟨.inl rfl, .inr rfl⟩
  | _ => exact ⟨.inl rfl, .inl rfl⟩

/-- Settles O49: PUT's store and a release advance their index by one, and no other move touches `head` or `tail`. -/
theorem indicesMoveOnePositionPerStep : Obligations.IndicesMoveOnePositionPerStep :=
  fun _ _ hstep => (ringMove_of_step hstep).index_cases

/-! ## The shadows (R70, R71) -/

/-- Settles O16: the turns of the synchronisers run `syncH` and `syncT`, after the beginning of the step. -/
theorem synchronisersCopyTheIndices : Obligations.SynchronisersCopyTheIndices :=
  ⟨fun _ ht => ⟨_, step_of_agent ht, rfl⟩, fun _ ht => ⟨_, step_of_agent ht, rfl⟩⟩

/-- A micro-step of the W domain leaves both shadows (R71). -/
theorem MicroStepW.shadows_eq {s t : State} (m : MicroStepW s t) :
    t.ring.headR = s.ring.headR ∧ t.ring.tailW = s.ring.tailW := by
  cases m with
  | ring h | rxbyteX2 h => cases h <;> exact ⟨rfl, rfl⟩
  | _ => exact ⟨rfl, rfl⟩

/-- A micro-step of the R domain leaves both shadows (R71). -/
theorem MicroStepR.shadows_eq {s t : State} {i : Instr} (m : MicroStepR s i t) :
    t.ring.headR = s.ring.headR ∧ t.ring.tailW = s.ring.tailW := by
  cases m with
  | ring _ h | egressE8 _ _ h | egressE8End h => cases h <;> exact ⟨rfl, rfl⟩
  | baud _ h | svcS1 _ h => cases h <;> exact ⟨rfl, rfl⟩
  | _ => exact ⟨rfl, rfl⟩

/-- A step outside the two domains leaves the shadows, unless it is a synchroniser's. -/
theorem OutsideStep.shadow_cases {s t : State} (h : OutsideStep s t) :
    (nextTurn s = .agent .syncH ∧ t.ring = { s.ring with headR := s.ring.head }) ∨
    (nextTurn s = .agent .syncT ∧ t.ring = { s.ring with tailW := s.ring.tail }) ∨
    (t.ring.headR = s.ring.headR ∧ t.ring.tailW = s.ring.tailW) := by
  cases h with
  | syncH ht => exact .inl ⟨ht, rfl⟩
  | syncT ht => exact .inr (.inl ⟨ht, rfl⟩)
  | _ => exact .inr (.inr ⟨rfl, rfl⟩)

/-- A step leaves the shadows, unless it is a synchroniser's (R71). -/
theorem shadow_cases_of_step {s t : State} (h : step s = .next t) :
    (nextTurn s = .agent .syncH ∧ t.ring = { s.ring with headR := s.ring.head }) ∨
    (nextTurn s = .agent .syncT ∧ t.ring = { s.ring with tailW := s.ring.tail }) ∨
    (t.ring.headR = s.ring.headR ∧ t.ring.tailW = s.ring.tailW) := by
  cases stepCases_of_step h with
  | outside o => exact o.shadow_cases
  | w hx m => exact .inr (.inr (hx.ring_eq ▸ m.shadows_eq))
  | r hx m =>
    have hring := congrArg (·.ring) hx.architectural_eq
    exact .inr (.inr (hring ▸ m.shadows_eq))

/-- Settles O50: a shadow that changes was moved by its own synchroniser, which copies the source. -/
theorem shadowsOnlyCopyTheirSources : Obligations.ShadowsOnlyCopyTheirSources := by
  intro s t h
  obtain ⟨ht, e⟩ | ⟨ht, e⟩ | ⟨eHead, eTail⟩ := shadow_cases_of_step h
  · rw [e]
    exact ⟨fun _ => ⟨ht, rfl⟩, fun hne => absurd rfl hne⟩
  · rw [e]
    exact ⟨fun hne => absurd rfl hne, fun _ => ⟨ht, rfl⟩⟩
  · exact ⟨fun hne => absurd eHead hne, fun hne => absurd eTail hne⟩

end Sys2Proof.Machine
end

section
/-! PROOFS. The buffer as a queue (R73, R77): what a store and a release make of the bytes it holds. -/

namespace Sys2Proof.Machine

/-! ## The two moves of the queue -/

/-- The ring after PUT's store (R111). -/
abbrev Ring.stored (r : Ring) (b : Byte) : Ring :=
  { r with head := r.head + 1#12, buf := Memory.store r.buf r.head.toNat b }

/-- The ring after a release (R113, R115). -/
abbrev Ring.released (r : Ring) : Ring := { r with tail := r.tail + 1#12 }

/-! ## The bytes held -/

/-- As many bytes are held as the occupancy says (R16). -/
theorem length_contents (s : State) : (contents s).length = occupancy s := by
  simp [contents]

/-- The bytes held depend on `head`, `tail` and the storage only. -/
theorem contents_congr {s t : State} (hhead : t.ring.head = s.ring.head) (htail : t.ring.tail = s.ring.tail)
    (hbuf : t.ring.buf = s.ring.buf) : contents t = contents s := by
  simp only [contents, occupancy, hhead, htail, memRead_congr hbuf]

/-- The bytes held are told by the ring. -/
theorem contents_of_ring_eq {s t : State} (h : t.ring = s.ring) : contents t = contents s :=
  contents_congr (congrArg (·.head) h) (congrArg (·.tail) h) (congrArg (·.buf) h)

/-- No bytes are held exactly where `head` meets `tail`. -/
theorem contents_eq_nil_iff {s : State} : contents s = [] ↔ s.ring.head = s.ring.tail := by
  rw [← List.length_eq_zero_iff, length_contents]
  exact sub_toNat_eq_zero_iff _ _

/-- A store at `head` appends its byte (R77, R111). -/
theorem contents_of_store {s t : State} {b : Byte} (hroom : s.ring.head + 1#12 ≠ s.ring.tail)
    (hring : t.ring = s.ring.stored b) : contents t = contents s ++ [b] := by
  have hocc : occupancy t = occupancy s + 1 := by
    rw [occupancy, hring]
    exact succ_sub_toNat _ _ hroom
  have htail : t.ring.tail = s.ring.tail := by rw [hring]
  have hread (a : Index) : memRead t a = memRead (memWrite s s.ring.head b) a := memRead_congr (by rw [hring]; rfl) a
  have hold : ∀ k ∈ List.range (occupancy s),
      memRead t (s.ring.tail + BitVec.ofNat Config.AW k) = memRead s (s.ring.tail + BitVec.ofNat Config.AW k) :=
    fun k hk => (hread _).trans (memRead_memWrite_other s b (add_ne_of_lt_sub _ _ (List.mem_range.1 hk)))
  have hlast : memRead t (s.ring.tail + BitVec.ofNat Config.AW (occupancy s)) = b := by
    rw [occupancy, add_sub_toNat, hread, memRead_memWrite_same]
  rw [contents, contents, hocc, htail, List.range_succ, List.map_append, List.map_congr_left hold, List.map_singleton,
    hlast]

/-- A release takes the byte at `tail` away (R77, R113, R115). -/
theorem contents_of_release {s t : State} (hheld : s.ring.head ≠ s.ring.tail)
    (hring : t.ring = s.ring.released) :
    contents s = memRead s s.ring.tail :: contents t := by
  have hocc : occupancy s = occupancy t + 1 := by
    rw [occupancy, occupancy, hring]
    exact (sub_succ_toNat _ _ hheld).symm
  have hread (k : Nat) : memRead t (t.ring.tail + BitVec.ofNat Config.AW k) =
      memRead s (s.ring.tail + BitVec.ofNat Config.AW (k + 1)) := by
    have htail : t.ring.tail = s.ring.tail + 1#12 := by rw [hring]
    rw [memRead_congr (t := t) (s := s) (by rw [hring]), htail]
    exact congrArg (memRead s) (succ_add_ofNat _ _)
  simp only [contents, hocc, List.range_succ_eq_map, List.map_cons, List.map_map, hread]
  rw [BitVec.add_zero]
  rfl

end Sys2Proof.Machine
end

section
/-! PROOFS. Which operations move the ends of the ring, and with what answer (R111, R113, R115, R141, R151), and which
operation a step runs and for whom (R93, R99). -/

namespace Sys2Proof.Machine

/-! ## The operations that move the ends of the ring -/

/-- What operation `i` makes of the ring in one atomic step from `s`: nothing, a store by PUT or by RXBYTE's X2, or a
release by GET, ADV or EGRESS's E8, each with its answer (R111, R113, R115, R141, R151). -/
inductive RingExec (s t : State) (i : Instr) : Prop
  | stays (hring : t.ring = s.ring)
  | stores (b : Byte) (who : i = .put b ∨ (i = .rxbyte ∧ s.wstep = .x2 ∧ b = s.scratch.rxd))
    (answer : t.ports.wResp = 0x4000#16) (room : s.ring.head + 1#12 ≠ s.ring.tailW)
    (hring : t.ring = s.ring.stored b)
  | releases (who : (i = .get ∧ t.ports.rResp = 0x6000#16 ||| (memRead s s.ring.tail).zeroExtend 16) ∨
      (i = .adv ∧ t.ports.rResp = 0x4000#16) ∨
      (i = .egress ∧ (∃ j, s.ustep = .e8 j) ∧ t.ports.rResp = 0x4000#16))
    (avail : s.ring.headR ≠ s.ring.tail) (hring : t.ring = s.ring.released)

/-- RXBYTE stores a byte at X2 only (R141). -/
theorem ringExec_of_execRxbyte {s t : State} (h : execRxbyte s = .next t) : RingExec s t .rxbyte := by
  unfold execRxbyte at h
  split at h
  next => cases h; unfold rxbyteX0; split <;> exact .stays rfl
  next => split at h <;> cases h; exact .stays rfl
  next hw =>
    cases h
    unfold rxbyteX2
    dsimp only
    obtain ⟨-, e⟩ | ⟨room, e⟩ := putOp_cases (presentW s (encode (.put s.scratch.rxd))).scratch.rxd
      (presentW s (encode (.put s.scratch.rxd)))
    · rw [e]; exact .stays rfl
    · rw [e]; exact .stores _ (.inr ⟨rfl, hw, rfl⟩) (responseWord_plain true) room rfl
  next => cases h; exact .stays rfl

/-- EGRESS releases a byte at E8 only (R151). -/
theorem ringExec_of_execEgress {s t : State} (h : execEgress s = .next t) : RingExec s t .egress := by
  unfold execEgress at h
  split at h
  case h_9 j hu =>
    cases h
    unfold egressE8
    dsimp only
    obtain ⟨-, e⟩ | ⟨avail, e⟩ := advOp_cases (presentR s (encode .adv))
    · rw [e]; split <;> exact .stays rfl
    · rw [e]; split <;> exact .releases (.inr (.inr ⟨rfl, ⟨j, hu⟩, responseWord_plain true⟩)) avail rfl
  next => cases h; unfold egressE0; split <;> exact .stays rfl
  next => cases h; exact .stays rfl
  next => cases h; exact .stays rfl
  next => cases h; exact .stays rfl
  next => cases h; unfold egressE4; split <;> exact .stays rfl
  next i _ => cases h; obtain ⟨-, e⟩ | ⟨-, e⟩ := egressE5_cases i s <;> rw [e] <;> exact .stays rfl
  next => split at h <;> cases h; exact .stays rfl
  next => cases h; unfold egressE7; split <;> exact .stays rfl
  next => cases h

/-- BAUD's step leaves the ring (R171). -/
theorem BaudStep.ring_eq {s q : State} (h : BaudStep s q) : q.ring = s.ring := by
  cases h <;> rfl

/-- In the middle of an operation besides EGRESS the R domain leaves the ring. -/
theorem MicroStepR.ring_eq_of_busy {s t : State} {i : Instr} (m : MicroStepR s i t) (hu : s.ustep ≠ .idle)
    (hi : i ≠ .egress) : t.ring = s.ring := by
  cases m with
  | ring h0 | baud h0 => exact absurd h0 hu
  | egressE8 | egressE8End => exact absurd rfl hi
  | svcS1 _ h => exact h.ring_eq
  | _ => rfl

/-- The first micro-steps of the R domain's operations leave the ring (R151, R161, R181, R191, R203, R205). -/
theorem ring_eq_of_first {i : Instr} {s t : State} (hw : WellFormed .r i = true) (hi : i.isPrimitive = false)
    (hu : s.ustep = .idle) (h : exec i s = .next t) : t.ring = s.ring := by
  cases i with
  | svc => rw [exec, execSvc, hu] at h; cases h; rfl
  | banner => rw [exec, execBanner, hu] at h; cases h; unfold bannerB0; split <;> rfl
  | egress => rw [exec, execEgress, hu] at h; cases h; unfold egressE0; split <;> rfl
  | ingress => rw [exec, execIngress, hu] at h; cases h; unfold ingressI0; split <;> rfl
  | indic => rw [exec, execIndic, hu] at h; cases h; rfl
  | boot =>
    simp only [exec, execBoot, hu] at h
    split at h <;> cases h
    rfl
  | rxbyte => cases hw
  | _ => cases hi

/-- An operation of the W port moves the ring as `RingExec` says. -/
theorem ringExec_of_exec_w {i : Instr} {s t : State} (hi : WellFormed .w i = true) (h : exec i s = .next t) :
    RingExec s t i := by
  cases i with
  | put b =>
    cases h
    obtain ⟨-, e⟩ | ⟨room, e⟩ := putOp_cases b s
    · rw [e]; exact .stays rfl
    · rw [e]; exact .stores b (.inl rfl) (responseWord_plain true) room rfl
  | rxbyte => exact ringExec_of_execRxbyte h
  | nop | touchw => cases h; exact .stays rfl
  | _ => cases hi

/-- An operation of the R port, presented between two operations or continued, moves the ring as `RingExec` says. -/
theorem ringExec_of_exec_r {i : Instr} {s t : State} (hi : WellFormed .r i = true)
    (hu : s.ustep = .idle ∨ inProgressR s.ustep = some i) (h : exec i s = .next t) : RingExec s t i := by
  cases i with
  | get =>
    cases h
    obtain ⟨-, e⟩ | ⟨avail, e⟩ := getOp_cases s
    · rw [e]; exact .stays rfl
    · rw [e]; exact .releases (.inl ⟨rfl, responseWord_byte _⟩) avail rfl
  | adv =>
    cases h
    obtain ⟨-, e⟩ | ⟨avail, e⟩ := advOp_cases s
    · rw [e]; exact .stays rfl
    · rw [e]; exact .releases (.inr (.inl ⟨rfl, responseWord_plain true⟩)) avail rfl
  | baud => cases h; exact .stays (baudStep_baudOp s).ring_eq
  | egress => exact ringExec_of_execEgress h
  | nop | avail | peek | touchr => cases h; exact .stays rfl
  | svc | banner | ingress | indic | boot =>
    refine .stays ?_
    by_cases hidle : s.ustep = .idle
    · exact ring_eq_of_first hi rfl hidle h
    · exact (microStepR_of_exec hi hu h).ring_eq_of_busy hidle nofun
  | put | touchw | rxbyte => cases hi

/-! ## The operation that a step runs -/

/-- In a step from `s` the domain behind port `p` runs operation `i`, for a harness on a free port or in its sequencer's
turn, from a state with the registers of `s` but for the handler's transition (R99, R201, R224). -/
structure RunsFrom (s : State) (p : Port) (i : Instr) (x : State) : Prop where
  legal : WellFormed p i = true
  turn : (nextTurn s = .harness p (encode i) ∧ harnessRefusal p (beginStep s) = none) ∨
    (nextTurn s = .agent (portAgent p) ∧ (i = .nop ∨ i.isPrimitive = false))
  position : p = .r → x.ustep = .idle ∨ inProgressR x.ustep = some i
  registers : architectural x = architectural { s with isrState := x.isrState }

/-- The handler's transition writes `isr_state` only (R224, R226). -/
theorem architectural_handlerTransition (s : State) : architectural (handlerTransition s) =
    architectural { s with isrState := (handlerTransition s).isrState } := by
  obtain ⟨-, -, -, h⟩ | ⟨-, -, h⟩ | h := handlerTransition_cases s <;> rw [h]

/-- The operation of a harness's legal word is run (R99). -/
theorem runs_of_harness {s t : State} {p : Port} {w : Word} (ht : nextTurn s = .harness p w)
    (h : turnHarness p w (beginStep s) = .next t) :
    OutsideStep s t ∨ ∃ i x, RunsFrom s p i x ∧ exec i x = .next t := by
  unfold turnHarness at h
  split at h
  next =>
    cases h
    cases p with
    | w => exact .inl (.illegalW ht)
    | r => exact .inl (.illegalR ht)
  next i hd =>
    split at h
    next => cases h
    next hfree =>
      rw [← encode_of_decode hd] at ht
      refine .inr ⟨i, _, ⟨wellFormed_of_decode hd, .inl ⟨ht, hfree⟩, ?_, ?_⟩, h⟩
      · rintro rfl
        exact .inl (((harnessRefusal_eq_none_iff .r _).1 hfree).2 rfl)
      · cases p <;> rfl

/-- The W sequencer's word spells NOP, or RXBYTE, which is no primitive (R93). -/
theorem decode_wordW_nop_or_rxbyte (s : State) :
    ∃ i, decode .w (wordW s) = .ok i ∧ (i = .nop ∨ i.isPrimitive = false) := by
  unfold wordW
  split
  · exact ⟨.rxbyte, by decide, .inr rfl⟩
  · exact ⟨.nop, by decide, .inl rfl⟩

/-- The operation of the W sequencer's word, or the RXBYTE in progress, is run (R142, R224). -/
theorem runs_of_turnW {s t : State} (ht : nextTurn s = .agent .w) (h : turnW (beginStep s) = .next t) :
    ∃ i x, RunsFrom s .w i x ∧ exec i x = .next t := by
  unfold turnW at h
  split at h
  next =>
    obtain ⟨i, hd, hi⟩ := decode_wordW_nop_or_rxbyte (beginStep s)
    rw [runWord_legal hd] at h
    exact ⟨i, presentW (handlerTransition (beginStep s)) (wordW (beginStep s)), ⟨wellFormed_of_decode hd, .inr ⟨ht, hi⟩,
      nofun, architectural_handlerTransition (beginStep s)⟩, h⟩
  next => exact ⟨.rxbyte, beginStep s, ⟨rfl, .inr ⟨ht, .inr rfl⟩, nofun, rfl⟩, h⟩

/-- The operation of the R sequencer's word, or the one in progress, is run (R201, R202). -/
theorem runs_of_turnR {s t : State} (ht : nextTurn s = .agent .r) (h : turnR (beginStep s) = .next t) :
    ∃ i x, RunsFrom s .r i x ∧ exec i x = .next t := by
  unfold turnR at h
  split at h
  next i hi =>
    exact ⟨i, beginStep s, ⟨wellFormed_of_inProgressR hi, .inr ⟨ht, .inr (isPrimitive_of_inProgressR hi)⟩,
      fun _ => .inr hi, rfl⟩, h⟩
  next hi =>
    have hu : s.ustep = .idle := inProgressR_eq_none_iff.1 hi
    split at h
    next w hw =>
      obtain ⟨row, hrow, -, rfl⟩ := schedulerRow_of_wordR hw
      have hd := decode_schedulerRows row hrow
      have hprim : row.2.2.isPrimitive = false :=
        (by decide : ∀ row ∈ schedulerRows, row.2.2.isPrimitive = false) row hrow
      rw [runWord_legal hd] at h
      exact ⟨_, presentR (beginStep s) row.2.1, ⟨wellFormed_of_decode hd, .inr ⟨ht, .inr hprim⟩,
        fun _ => .inl hu, rfl⟩, h⟩
    next => cases h

/-- A step is one outside the two domains or runs an operation on a port. -/
theorem runs_of_step {s t : State} (h : step s = .next t) :
    OutsideStep s t ∨ ∃ p i x, RunsFrom s p i x ∧ exec i x = .next t := by
  cases stepCases_of_step h with
  | outside o => exact .inl o
  | w hx _ =>
    obtain ht | ⟨w, ht⟩ := hx.moves
    · exact .inr ⟨_, runs_of_turnW ht ((step_of_agent_w ht).symm.trans h)⟩
    · exact (runs_of_harness ht ((step_of_harness ht).symm.trans h)).imp_right fun hr => ⟨_, hr⟩
  | r hx _ =>
    obtain ht | ⟨w, ht⟩ := hx.moves
    · exact .inr ⟨_, runs_of_turnR ht ((step_of_agent_r ht).symm.trans h)⟩
    · exact (runs_of_harness ht ((step_of_harness ht).symm.trans h)).imp_right fun hr => ⟨_, hr⟩

/-- The operation of a step moves the ring as `RingExec` says. -/
theorem RunsFrom.ringExec {s t x : State} {p : Port} {i : Instr} (hr : RunsFrom s p i x) (h : exec i x = .next t) :
    RingExec x t i := by
  cases p with
  | w => exact ringExec_of_exec_w hr.legal h
  | r => exact ringExec_of_exec_r hr.legal (hr.position rfl) h

/-- An operation that is illegal on the R port runs on the W port. -/
theorem RunsFrom.port_eq_w {s x : State} {p : Port} {i : Instr} (hr : RunsFrom s p i x)
    (hi : WellFormed .r i = false) : p = .w := by
  cases p with
  | w => rfl
  | r => exact absurd hr.legal (by simp [hi])

/-- An operation that is illegal on the W port runs on the R port. -/
theorem RunsFrom.port_eq_r {s x : State} {p : Port} {i : Instr} (hr : RunsFrom s p i x)
    (hi : WellFormed .w i = false) : p = .r := by
  cases p with
  | r => rfl
  | w => exact absurd hr.legal (by simp [hi])

/-- A primitive besides NOP is run for a harness only: no sequencer presents its word (R93). -/
theorem RunsFrom.harness_of_primitive {s x : State} {p : Port} {i : Instr} (hr : RunsFrom s p i x)
    (hi : i.isPrimitive = true) (hnop : i ≠ .nop) : nextTurn s = .harness p (encode i) := by
  obtain ⟨ht, -⟩ | ⟨-, hseq | hseq⟩ := hr.turn
  · exact ht
  · exact absurd hseq hnop
  · simp [hi] at hseq

/-- An operation in progress is continued in its sequencer's turn only: a harness finds the port busy (R99). -/
theorem RunsFrom.agent_of_busy {s x : State} {p : Port} {i : Instr} (hr : RunsFrom s p i x)
    (hbusy : portFree p s = false) : nextTurn s = .agent (portAgent p) := by
  obtain ⟨-, hfree⟩ | ⟨ht, -⟩ := hr.turn
  · obtain ⟨hw, hu⟩ := (harnessRefusal_eq_none_iff p _).1 hfree
    cases p with
    | w => exact absurd (hw rfl).2.2 (by simpa [portFree] using hbusy)
    | r => exact absurd (hu rfl) (by simpa [portFree] using hbusy)
  · exact ht

end Sys2Proof.Machine
end

section
/-! PROOFS. The order of the bytes (R77, R112, R120): what one step makes of the bytes held, and what a batch of PUT and
one of GET do. -/

namespace Sys2Proof.Machine

/-! ## One step -/

/-- A step outside the two domains leaves the bytes held. -/
theorem OutsideStep.contents_eq {s t : State} (h : OutsideStep s t) : contents t = contents s := by
  cases h <;> exact contents_congr rfl rfl rfl

/-- Where the ring invariant holds and the producer sees room, there is room (R72, R111). -/
theorem RingInv.succ_head_ne_tail {s : State} (h : RingInv s) (room : s.ring.head + 1#12 ≠ s.ring.tailW) :
    s.ring.head + 1#12 ≠ s.ring.tail := by
  have hlt := h.lt_of_room room
  have hocc := h.occupancy_eq
  exact succ_ne_of_sub_lt _ _ (show occupancy s < 4095 by omega)

/-- Settles O12: the operation of a step leaves the ring, stores at `head` or releases at `tail`; which operations do,
and what they answer, is `RingExec`. -/
theorem contentsChangeOnlyAtTheEnds : Obligations.ContentsChangeOnlyAtTheEnds := by
  intro s t hinv h
  obtain o | ⟨p, i, x, hruns, hexec⟩ := runs_of_step h
  · exact .inl o.contents_eq
  have hring : x.ring = s.ring := congrArg (·.ring) hruns.registers
  have hu : x.ustep = s.ustep := congrArg (·.ustep) hruns.registers
  have hw : x.wstep = s.wstep := congrArg (·.wstep) hruns.registers
  have hrxd : x.scratch.rxd = s.scratch.rxd := congrArg (·.scratch.rxd) hruns.registers
  cases hruns.ringExec hexec with
  | stays e => exact .inl (contents_of_ring_eq (e.trans hring))
  | stores b who answer room e =>
    rw [hring] at room e
    refine .inr (.inl ⟨b, contents_of_store (hinv.succ_head_ne_tail room) e, answer, ?_⟩)
    obtain rfl | ⟨rfl, hx2, rfl⟩ := who
    · obtain rfl := hruns.port_eq_w rfl
      exact .inl (hruns.harness_of_primitive rfl nofun)
    · obtain rfl := hruns.port_eq_w rfl
      rw [hw] at hx2
      exact .inr ⟨hruns.agent_of_busy (by simp [portFree, hx2]), hx2, hrxd⟩
  | releases who avail e =>
    rw [hring] at avail e
    have hread : memRead x s.ring.tail = memRead s s.ring.tail := memRead_congr (congrArg (·.buf) hring) _
    rw [hring, hread, hu] at who
    refine .inr (.inr ⟨_, contents_of_release (hinv.head_ne_tail avail) e, ?_⟩)
    obtain ⟨rfl, answer⟩ | ⟨rfl, answer⟩ | ⟨rfl, he8, answer⟩ := who
    · obtain rfl := hruns.port_eq_r rfl
      exact .inl ⟨hruns.harness_of_primitive rfl nofun, answer⟩
    · obtain rfl := hruns.port_eq_r rfl
      exact .inr (.inl ⟨hruns.harness_of_primitive rfl nofun, answer⟩)
    · obtain rfl := hruns.port_eq_r rfl
      obtain ⟨j, hj⟩ := he8
      exact .inr (.inr ⟨hruns.agent_of_busy (by simp [portFree, hj]), ⟨j, hj⟩, answer⟩)

/-! ## One batch of PUT and one of GET -/

/-- At most `C - 1` bytes are held (R9, R22). -/
theorem length_contents_le (s : State) : (contents s).length ≤ 4095 := by
  rw [length_contents]
  exact Nat.le_of_lt_succ (BitVec.isLt _)

/-- With the producer's shadow up to date PUT appends its byte, unless `C - 1` bytes are held: then the byte is dropped
(R111). -/
theorem exec_put_contents {s : State} (hsync : s.ring.tailW = s.ring.tail) (b : Byte) :
    ∃ t, exec (.put b) s = .next t ∧ t.ring.tailW = t.ring.tail ∧ contents t = (contents s ++ [b]).take 4095 := by
  refine ⟨_, rfl, ?_⟩
  obtain ⟨hfull, e⟩ | ⟨room, e⟩ := putOp_cases b s
  · have hlen : (contents s).length = 4095 := by
      rw [length_contents]
      exact (sub_toNat_eq_last_iff _ _).2 (hfull.trans hsync)
    rw [e, List.take_append_of_le_length hlen.ge, List.take_of_length_le hlen.le]
    exact ⟨hsync, contents_of_ring_eq rfl⟩
  · rw [hsync] at room
    rw [e, ← contents_of_store (t := respondW { s with ring := s.ring.stored b } (plainResponse true)) room rfl,
      List.take_of_length_le (length_contents_le _)]
    exact ⟨hsync, rfl⟩

/-- A full buffer refuses a byte and stays as it is (R111, R112). -/
theorem exec_put_full {s : State} (hfull : s.ring.head + 1#12 = s.ring.tailW) (b : Byte) :
    ∃ t, exec (.put b) s = .next t ∧ t.ports.wResp = 0x0000#16 ∧ t.ring = s.ring := by
  obtain ⟨-, e⟩ | ⟨room, -⟩ := putOp_cases b s
  · exact ⟨_, rfl, by rw [e]; exact ⟨responseWord_plain false, rfl⟩⟩
  · exact absurd hfull room

/-- With the consumer's shadow up to date GET on an empty buffer answers no byte (R113). -/
theorem exec_get_nil {s : State} (hsync : s.ring.headR = s.ring.head) (h : contents s = []) :
    ∃ t, exec .get s = .next t ∧ t.ports.rResp = 0x4000#16 ∧ t.ring = s.ring := by
  refine ⟨_, rfl, ?_⟩
  obtain ⟨-, e⟩ | ⟨avail, -⟩ := getOp_cases s
  · rw [e]
    exact ⟨responseWord_plain true, rfl⟩
  · exact absurd (hsync.trans (contents_eq_nil_iff.1 h)) avail

/-- With the consumer's shadow up to date GET answers the oldest byte held and takes it away (R113). -/
theorem exec_get_cons {s : State} {b : Byte} {bs : List Byte} (hsync : s.ring.headR = s.ring.head)
    (h : contents s = b :: bs) :
    ∃ t, exec .get s = .next t ∧ t.ports.rResp = 0x6000#16 ||| b.zeroExtend 16 ∧ t.ring = s.ring.released ∧
      contents t = bs := by
  refine ⟨_, rfl, ?_⟩
  obtain ⟨hempty, -⟩ | ⟨avail, e⟩ := getOp_cases s
  · have hnil : contents s = [] := contents_eq_nil_iff.2 (hsync.symm.trans hempty)
    simp [hnil] at h
  · rw [hsync] at avail
    rw [e]
    have hfirst := h.symm.trans (contents_of_release (t := respondR { s with ring := s.ring.released }
      (byteResponse (memRead s s.ring.tail))) avail rfl)
    obtain ⟨rfl, rfl⟩ := List.cons.inj hfirst
    exact ⟨responseWord_byte _, rfl, rfl⟩

/-- Bytes that a bounded queue has dropped make no room for later ones. -/
theorem take_take_append (n : Nat) (l m : List Byte) : (l.take n ++ m).take n = (l ++ m).take n := by
  have hlen : n - min n l.length = n - l.length := by omega
  rw [List.take_append, List.take_append, List.take_take, min_self, List.length_take, hlen]

/-- With the producer's shadow up to date a list of PUTs appends its bytes up to `C - 1` held, and drops the newest. -/
theorem execAll_puts_contents (bs : List Byte) {s : State} (hsync : s.ring.tailW = s.ring.tail) :
    ∃ t, execAll (bs.map .put) s = .next t ∧ t.ring.tailW = t.ring.tail ∧
      contents t = (contents s ++ bs).take 4095 := by
  induction bs generalizing s with
  | nil => exact ⟨s, rfl, hsync, by rw [List.append_nil, List.take_of_length_le (length_contents_le s)]⟩
  | cons b bs ih =>
    obtain ⟨t, ht, htsync, hput⟩ := exec_put_contents hsync b
    obtain ⟨u, hu, husync, hputs⟩ := ih htsync
    refine ⟨u, ?_, husync, ?_⟩
    · simp only [List.map_cons, execAll, ht, hu]
    · rw [hputs, hput, take_take_append, List.append_assoc, List.singleton_append]

/-- With the consumer's shadow up to date GETs answer the bytes held, oldest first, and then no byte (R113). -/
theorem responsesR_gets (n : Nat) {s : State} {bs : List Byte} (hsync : s.ring.headR = s.ring.head)
    (hbs : contents s = bs) :
    responsesR (List.replicate n .get) s =
      (bs.take n).map (fun b => 0x6000#16 ||| b.zeroExtend 16) ++ List.replicate (n - bs.length) 0x4000#16 := by
  induction n generalizing s bs with
  | zero => simp [responsesR]
  | succ n ih =>
    rw [List.replicate_succ]
    cases bs with
    | nil =>
      obtain ⟨t, ht, hresp, hring⟩ := exec_get_nil hsync hbs
      have hnil : contents t = [] := (contents_of_ring_eq hring).trans hbs
      simp only [responsesR, ht, hresp, ih (hring ▸ hsync) hnil]
      simp [List.replicate_succ]
    | cons b bs =>
      obtain ⟨t, ht, hresp, hring, hrest⟩ := exec_get_cons hsync hbs
      simp only [responsesR, ht, hresp, ih (hring ▸ hsync) hrest]
      simp

/-- Settles O27: the PUTs leave the first `C - 1` bytes in the buffer, SyncH shows them to the consumer, and the GETs
answer what is held. -/
theorem queueKeepsOrderAndDropsNewest : Obligations.QueueKeepsOrderAndDropsNewest := by
  intro bs s _ htail htailW
  obtain ⟨t, ht, hsync, hputs⟩ := execAll_puts_contents bs (htailW.trans htail.symm)
  have hempty : contents s = [] := contents_eq_nil_iff.2 htail.symm
  rw [hempty, List.nil_append] at hputs
  have hshown : contents (syncH t) = bs.take 4095 := (contents_congr rfl rfl rfl).trans hputs
  refine ⟨t, ht, ?_, fun hlen b => exec_put_full ?_ b⟩
  · have hrest : bs.length - min 4095 bs.length = bs.length - 4095 := by omega
    rw [responsesR_gets bs.length rfl hshown, List.length_take, hrest,
      List.take_of_length_le (List.length_take_le' _ _)]
  · have hfull : occupancy t = 4095 := by rw [← length_contents, hputs, List.length_take, Nat.min_eq_left hlen]
    exact ((sub_toNat_eq_last_iff _ _).1 hfull).trans hsync.symm

end Sys2Proof.Machine
end

section
/-! PROOFS. Progress on runs (R70, R236, R242, R288): the turns of the synchronisers and of Time have their effect, and
INGRESS's write comes to its end where it is fair. -/

namespace Sys2Proof.Machine

/-! ## An agent's turns -/

/-- A run on which an agent steps infinitely often has, after every moment, a step with that agent's effect. -/
theorem Run.exists_effect {sched : Nat → Turn} {r : Nat → State} (hrun : Run sched r) {a : AgentTurn}
    (hfair : FairFor a sched) {f : State → State} (ha : ∀ s, turnAgent a s = .next (f s)) (n : Nat) :
    ∃ m, n ≤ m ∧ r (m + 1) = f (beginStep (decideTurn (sched m) (r m))) := by
  obtain ⟨m, hle, hm⟩ := hfair n
  have ht : nextTurn (decideTurn (sched m) (r m)) = .agent a := hm
  have h := hrun m
  rw [step_of_agent ht, ha] at h
  injection h with h
  exact ⟨m, hle, h.symm⟩

/-! ## INGRESS's write (R161, R162, R242) -/

/-- INGRESS's write has `k` bytes left: it stands at I3 with `k` bytes still to write, or at I4 with none. -/
def WriteLeft (s : State) : Nat → Prop
  | 0 => s.ustep = .i4
  | k + 1 => ∃ j, s.ustep = .i3 j ∧ j.toNat + (k + 1) = s.scratch.inN.toNat ∧ s.scratch.inN.toNat ≤ 64

/-- The bytes left are told by the registers of the R domain. -/
theorem WriteLeft.congr {s t : State} {k : Nat} (h : WriteLeft s k) (e : registersR t = registersR s) :
    WriteLeft t k := by
  have hu : t.ustep = s.ustep := congrArg (·.ustep) e
  have hn : t.scratch.inN = s.scratch.inN := congrArg (·.scratch.inN) e
  cases k with
  | zero => exact hu.trans h
  | succ k =>
    obtain ⟨j, hj⟩ := h
    exact ⟨j, by rwa [hu, hn]⟩

/-- The R sequencer's turn at I3 is I3's micro-step. -/
theorem step_agent_r_of_i3 {s : State} {j : BitVec 6} (ht : nextTurn s = .agent .r) (hu : s.ustep = .i3 j) :
    step s = .next (ingressI3 j (beginStep s)) := by
  have hu' : (beginStep s).ustep = .i3 j := hu
  rw [step_of_agent_r ht, turnR_of_inProgress (congrArg inProgressR hu'), exec, execIngress, hu']

/-- At I3 only the R sequencer's own turn writes a register of the R domain, and that turn is I3's micro-step. -/
theorem step_of_i3 {s t : State} {j : BitVec 6} (h : step s = .next t) (hu : s.ustep = .i3 j) :
    registersR t = registersR s ∨ t = ingressI3 j (beginStep s) := by
  obtain ⟨i, x, hx, -⟩ | e := registersR_of_step h
  · rw [step_agent_r_of_i3 (hx.agent_of_busy (by simp [hu])) hu] at h
    injection h with h
    exact .inr h.symm
  · exact .inl e

/-- A byte that the UART accepts leaves one less. -/
theorem writeLeft_ingressI3 {s : State} {j : BitVec 6} {k : Nat} (hready : s.uart.txReady = true)
    (hleft : j.toNat + (k + 1) = s.scratch.inN.toNat) (hinN : s.scratch.inN.toNat ≤ 64) :
    WriteLeft (ingressI3 j s) k := by
  obtain ⟨-, e⟩ | ⟨hbusy, -⟩ := ingressI3_cases j s
  · rw [e]
    cases k with
    | zero => exact if_neg (by omega)
    | succ k =>
      have hnext : (j + 1#6).toNat = j.toNat + 1 := by bv_omega
      exact ⟨j + 1#6, if_pos (by omega), by rw [hnext]; dsimp only; omega, hinN⟩
  · simp [hready] at hbusy

/-- A step writes a byte or leaves the bytes that are left (R242). -/
theorem WriteLeft.of_step {s t : State} {k : Nat} (h : WriteLeft s (k + 1)) (hstep : step s = .next t) :
    WriteLeft t (k + 1) ∨ WriteLeft t k := by
  have ⟨j, hu, hleft, hinN⟩ := h
  obtain e | rfl := step_of_i3 hstep hu
  · exact .inl (h.congr e)
  · cases hready : s.uart.txReady with
    | true => exact .inr (writeLeft_ingressI3 hready hleft hinN)
    | false =>
      have e : ingressI3 j (beginStep s) = beginStep s := if_neg (by simpa [uartTxReady] using hready)
      rw [e]
      exact .inl h

/-- The R domain's turn with the UART ready writes a byte (R242). -/
theorem WriteLeft.of_step_agent_r {s t : State} {k : Nat} (h : WriteLeft s (k + 1)) (hstep : step s = .next t)
    (ht : nextTurn s = .agent .r) (hready : s.uart.txReady = true) : WriteLeft t k := by
  obtain ⟨j, hu, hleft, hinN⟩ := h
  rw [step_agent_r_of_i3 ht hu] at hstep
  injection hstep with e
  rw [← e]
  exact writeLeft_ingressI3 hready hleft hinN

/-- The next byte of a fair write is written at some time: until the turn that fairness gives, the bytes left stay or
one of them is written. -/
theorem WriteFair.exists_next {sched : Nat → Turn} {r : Nat → State} (hrun : Run sched r) (hfair : WriteFair sched r)
    {n k : Nat} (h : WriteLeft (r n) (k + 1)) : ∃ m, n ≤ m ∧ WriteLeft (r m) k := by
  have hdecide {m : Nat} (hm : WriteLeft (r m) (k + 1)) : WriteLeft (decideTurn (sched m) (r m)) (k + 1) := hm
  have huntil (m : Nat) (hm : n ≤ m) : WriteLeft (r m) (k + 1) ∨ ∃ l, n ≤ l ∧ WriteLeft (r l) k := by
    induction m, hm using Nat.le_induction with
    | base => exact .inl h
    | succ m hm ih =>
      obtain hleft | hdone := ih
      · exact ((hdecide hleft).of_step (hrun m)).imp_right fun hnext => ⟨m + 1, hm.trans (Nat.le_succ m), hnext⟩
      · exact .inr hdone
  have ⟨j, hu, _⟩ := h
  obtain ⟨m, hm, ht, hready⟩ := hfair n j hu
  obtain hleft | hdone := huntil m hm
  · exact ⟨m + 1, hm.trans (Nat.le_succ m), (hdecide hleft).of_step_agent_r (hrun m) ht hready⟩
  · exact hdone

/-- A fair write comes to its end. -/
theorem WriteFair.exists_end {sched : Nat → Turn} {r : Nat → State} (hrun : Run sched r) (hfair : WriteFair sched r)
    {n k : Nat} (h : WriteLeft (r n) k) : ∃ m, n ≤ m ∧ (r m).ustep = .i4 := by
  induction k generalizing n with
  | zero => exact ⟨n, le_rfl, h⟩
  | succ k ih =>
    obtain ⟨m, hm, hnext⟩ := WriteFair.exists_next hrun hfair h
    obtain ⟨l, hl, hend⟩ := ih hnext
    exact ⟨l, hm.trans hl, hend⟩

/-- Settles O8: a fair agent's turn has its effect in the run, and a fair write loses its bytes one by one. -/
theorem fairRunsMakeProgress : Obligations.FairRunsMakeProgress := by
  intro sched r hrun
  refine ⟨fun hfair n => ?syncH, fun hfair n => ?syncT, fun hfair n => ?time, fun hfair n j hu hj hinN => ?write⟩
  case syncH =>
    obtain ⟨m, hm, e⟩ := Run.exists_effect hrun hfair (fun _ => rfl) n
    exact ⟨m, hm, by rw [e]; rfl⟩
  case syncT =>
    obtain ⟨m, hm, e⟩ := Run.exists_effect hrun hfair (fun _ => rfl) n
    exact ⟨m, hm, by rw [e]; rfl⟩
  case time =>
    obtain ⟨m, hm, e⟩ := Run.exists_effect hrun hfair (fun _ => rfl) n
    exact ⟨m, hm, by rw [e]; rfl⟩
  case write =>
    obtain ⟨k, hk⟩ := Nat.exists_eq_add_of_lt hj
    exact WriteFair.exists_end hrun hfair (k := k + 1) ⟨j, hu, by omega, hinN⟩

end Sys2Proof.Machine
end

section
/-! PROOFS. The Gray code of an index (R75): decoding telescopes, and a step of the index flips the code's bit at the
lowest zero of the index, or its top bit on the wrap. -/

namespace Sys2Proof.Machine

/-! ## Decoding -/

/-- The Gray code of an exclusive or is the exclusive or of the Gray codes. -/
theorem gray_xor (x y : Index) : gray (x ^^^ y) = gray x ^^^ gray y := by
  simp only [gray, BitVec.ushiftRight_xor_distrib]
  ac_rfl

/-- The shifts of a Gray code combined so far: the inner terms of the exclusive or cancel (R75). -/
theorem foldl_gray_shift (x : Index) (n : Nat) :
    (List.range n).foldl (fun b k => b ^^^ (gray x >>> k)) 0#12 = x ^^^ (x >>> n) := by
  induction n with
  | zero => simp
  | succ n ih =>
    have hcode : gray x >>> n = x >>> n ^^^ x >>> (n + 1) := by
      rw [gray, BitVec.ushiftRight_xor_distrib, ← BitVec.shiftRight_add, Nat.add_comm 1 n]
    rw [List.range_succ, List.foldl_append, ih, List.foldl_cons, List.foldl_nil, hcode, BitVec.xor_assoc,
      ← BitVec.xor_assoc (x >>> n), BitVec.xor_self, BitVec.zero_xor]

/-- Decoding inverts the Gray code: nothing of a 12-bit index is left after 12 shifts (R75). -/
theorem ungray_gray (x : Index) : ungray (gray x) = x := by
  rw [ungray, foldl_gray_shift, BitVec.ushiftRight_eq_zero (le_refl 12), BitVec.xor_zero]

/-! ## Successive codes -/

/-- Adding one flips exactly the bits with no zero below them. -/
theorem getLsbD_xor_add_one (x : Index) {i : Nat} (hi : i < 12) :
    (x ^^^ (x + 1#12)).getLsbD i = decide (∀ j < i, x.getLsbD j = true) := by
  rw [BitVec.getLsbD_xor, BitVec.getLsbD_add hi]
  cases i with
  | zero => simp
  | succ i =>
    rw [BitVec.carry_succ_one i x (by decide)]
    simp

/-- An index has a lowest zero, or none below its top bit. -/
theorem exists_lowest_zero (x : Index) :
    ∃ k < 12, (∀ j < k, x.getLsbD j = true) ∧ (k = 11 ∨ x.getLsbD k = false) := by
  have hex : ∃ k, k = 11 ∨ x.getLsbD k = false := ⟨11, .inl rfl⟩
  refine ⟨Nat.find hex, Nat.lt_succ_of_le (Nat.find_min' hex (.inl rfl)), fun j hj => ?_, Nat.find_spec hex⟩
  simpa using (not_or.1 (Nat.find_min hex hj)).2

/-- Adding one flips the bits up to the lowest zero. -/
theorem getLsbD_xor_add_one_of_lowest_zero (x : Index) {k i : Nat} (hones : ∀ j < k, x.getLsbD j = true)
    (hzero : k = 11 ∨ x.getLsbD k = false) (hi : i < 12) : (x ^^^ (x + 1#12)).getLsbD i = decide (i ≤ k) := by
  rw [getLsbD_xor_add_one x hi, decide_eq_decide]
  refine ⟨fun h => Nat.le_of_not_lt fun hk => ?_, fun h j hj => hones j (hj.trans_le h)⟩
  obtain rfl | hzero := hzero
  · omega
  · simp [h k hk] at hzero

/-- Successive codes differ in the bit of the index's lowest zero, or in the top bit (R75). -/
theorem gray_xor_gray_add_one (x : Index) : ∃ k < 12, gray x ^^^ gray (x + 1#12) = BitVec.twoPow 12 k := by
  obtain ⟨k, hk, hones, hzero⟩ := exists_lowest_zero x
  refine ⟨k, hk, ?_⟩
  rw [← gray_xor]
  have hbit : ∀ i < 12, (x ^^^ (x + 1#12)).getLsbD i = decide (i ≤ k) := fun _ =>
    getLsbD_xor_add_one_of_lowest_zero x hones hzero
  have hnext (i : Nat) : (x ^^^ (x + 1#12)).getLsbD (1 + i) = decide (1 + i ≤ k) := by
    obtain hi | hi := Nat.lt_or_ge (1 + i) 12
    · exact hbit _ hi
    · rw [BitVec.getLsbD_of_ge _ _ hi, Eq.comm, decide_eq_false_iff_not]
      omega
  apply BitVec.eq_of_getLsbD_eq
  intro i hi
  rw [gray, BitVec.getLsbD_xor, BitVec.getLsbD_ushiftRight, hbit i hi, hnext i, BitVec.getLsbD_twoPow, Bool.eq_iff_iff]
  simp
  omega

/-- Codes that differ by a power of two differ in exactly one bit. -/
theorem oneBitApart_of_xor_eq_twoPow {x y : Index} {k : Nat} (hk : k < 12) (h : x ^^^ y = BitVec.twoPow 12 k) :
    oneBitApart x y = true := by
  have table : ∀ k < 12, BitVec.twoPow 12 k ≠ 0#12 ∧ BitVec.twoPow 12 k &&& (BitVec.twoPow 12 k - 1#12) = 0#12 := by
    decide
  simpa only [oneBitApart, h, Bool.and_eq_true, decide_eq_true_eq] using table k hk

/-- Settles O60: decoding telescopes, the codes of an index and its successor differ by a power of two, and the examples
are computed. -/
theorem grayCodeCrossesOneBitAtATime : Obligations.GrayCodeCrossesOneBitAtATime := by
  refine ⟨fun x => ⟨ungray_gray x, ?_⟩, by decide⟩
  obtain ⟨k, hk, h⟩ := gray_xor_gray_add_one x
  exact oneBitApart_of_xor_eq_twoPow hk h

end Sys2Proof.Machine
end

section
/-! PROOFS. The command words (R90 to R96): decoding inverts encoding, the opcode table's rows, the illegal words, and
the words that the sequencers present. -/

namespace Sys2Proof.Machine

/-! ## Decoding inverts encoding (R92, R94) -/

/-- Every operation's word has its row's bits and decodes back to the operation (R92, R94). -/
theorem tableRow_statement (i : Instr) : Laws.TableRow.Statement i := by
  cases i with
  | nop => exact Laws.TableRow.nop
  | put b => exact Laws.TableRow.put b
  | touchw => exact Laws.TableRow.touchw
  | rxbyte => exact Laws.TableRow.rxbyte
  | baud => exact Laws.TableRow.baud
  | get => exact Laws.TableRow.get
  | avail => exact Laws.TableRow.avail
  | peek k => exact Laws.TableRow.peek k
  | adv => exact Laws.TableRow.adv
  | touchr => exact Laws.TableRow.touchr
  | svc => exact Laws.TableRow.svc
  | banner => exact Laws.TableRow.banner
  | egress => exact Laws.TableRow.egress
  | ingress => exact Laws.TableRow.ingress
  | indic => exact Laws.TableRow.indic
  | boot => exact Laws.TableRow.boot

/-- An operation's word has the match bits of its row under the row's mask (R92). -/
theorem encode_and_tableMask (i : Instr) : encode i &&& tableMask i = tableMatch i := (tableRow_statement i).1

/-- The decoder reads back the encoding of every operation on every port that its class admits (R92, R94). -/
theorem decode_encode {p : Port} {i : Instr} (h : WellFormed p i = true) : decode p (encode i) = .ok i :=
  (tableRow_statement i).2 p h

/-- Settles O1: an operation's encoding decodes to it where its class admits the port, and a word that decodes to an
operation is its encoding. -/
theorem decodingInvertsEncoding : Obligations.DecodingInvertsEncoding := by
  intro p w i
  refine ⟨fun h => ⟨(encode_of_decode h).symm, wellFormed_of_decode h⟩, ?_⟩
  rintro ⟨rfl, hi⟩
  exact decode_encode hi

/-! ## The rows of the opcode table (R92) -/

/-- An operation's row of the opcode table: mnemonic, match, mask and class (R92). -/
def tableRow (i : Instr) : String × Word × Word × PortClass := (i.mnemonic, tableMatch i, tableMask i, i.portClass)

/-- One operation for each row of the table, in the table's order. -/
def rowOperations : List Instr :=
  [.nop, .put 0#8, .touchw, .rxbyte, .baud, .get, .avail, .peek 0#6, .adv, .touchr, .svc, .banner, .egress, .ingress,
    .indic, .boot]

/-- Every operation has its row in the table. -/
theorem tableRow_mem (i : Instr) : tableRow i ∈ rowOperations.map tableRow := by
  cases i with
  | put b => exact List.mem_map.2 ⟨.put 0#8, by decide, rfl⟩
  | peek k => exact List.mem_map.2 ⟨.peek 0#6, by decide, rfl⟩
  | _ => exact List.mem_map_of_mem (by decide)

/-- A mnemonic names one row (R92). -/
theorem tableRow_eq_of_mnemonic_eq {i j : Instr} (h : i.mnemonic = j.mnemonic) : tableRow i = tableRow j := by
  have distinct : ((rowOperations.map tableRow).map Prod.fst).Nodup := by decide
  exact List.inj_on_of_nodup_map distinct (tableRow_mem i) (tableRow_mem j) h

/-- A word with the match bits of PUT's row is a PUT of its low byte (R94). -/
theorem encode_put_of_mask {w : Word} (h : w &&& 0xFF00#16 = 0x1000#16) : encode (.put (byteField w)) = w := by
  have hop : w.extractLsb' 8 8 = 0x10#8 := by
    have hbits := congrArg (BitVec.extractLsb' 8 8) h
    rw [BitVec.extractLsb'_and] at hbits
    exact (BitVec.and_allOnes (x := w.extractLsb' 8 8)).symm.trans hbits
  rw [encode, ← hop]
  exact BitVec.extractLsb'_append_extractLsb'

/-- A word with the match bits of PEEK's row is a PEEK at its low six bits (R94). -/
theorem encode_peek_of_mask {w : Word} (h : w &&& 0xFFC0#16 = 0x7000#16) : encode (.peek (indexField w)) = w := by
  have hop : w.extractLsb' 6 10 = 0x1C0#10 := by
    have hbits := congrArg (BitVec.extractLsb' 6 10) h
    rw [BitVec.extractLsb'_and] at hbits
    exact (BitVec.and_allOnes (x := w.extractLsb' 6 10)).symm.trans hbits
  rw [encode, ← hop]
  exact BitVec.extractLsb'_append_extractLsb'

/-- A word with the match bits of a row is the encoding of an operation of that row (R92, R94). -/
theorem exists_encode_eq_of_mask {i : Instr} {w : Word} (h : w &&& tableMask i = tableMatch i) :
    ∃ j, tableRow j = tableRow i ∧ encode j = w := by
  cases i with
  | put b => exact ⟨.put (byteField w), rfl, encode_put_of_mask h⟩
  | peek k => exact ⟨.peek (indexField w), rfl, encode_peek_of_mask h⟩
  | _ => exact ⟨_, rfl, h.symm.trans (BitVec.and_allOnes (x := w))⟩

/-- Settles O2: each row of the list is an operation's, a mnemonic names its row, and the words of a row are the
encodings of its operations. -/
theorem wordsSpellTheirTableRows : Obligations.WordsSpellTheirTableRows := by
  intro row hrow p w
  obtain ⟨j, -, rfl⟩ := List.mem_map.1 (show row ∈ rowOperations.map tableRow from hrow)
  constructor
  · rintro ⟨i, hi, hd⟩
    rw [← tableRow_eq_of_mnemonic_eq hi, ← encode_of_decode hd]
    exact ⟨encode_and_tableMask i, wellFormed_of_decode hd⟩
  · rintro ⟨hmask, hclass⟩
    obtain ⟨i, hi, rfl⟩ := exists_encode_eq_of_mask hmask
    refine ⟨i, congrArg (·.1) hi, decode_encode ?_⟩
    rw [← hi] at hclass
    exact hclass

/-! ## The illegal words (R95) -/

/-- Every opcode but PUT's and PEEK's has format Z (R90, R92). -/
theorem decodeWord_of_formatZ {w : Word} (hput : opField w ≠ 1#4) (hpeek : opField w ≠ 7#4) :
    ∃ i, decodeWord w = decodeZ w i := by
  unfold decodeWord
  split
  case h_2 h => exact absurd (BitVec.eq_of_toNat_eq h) hput
  case h_8 h => exact absurd (BitVec.eq_of_toNat_eq h) hpeek
  all_goals exact ⟨_, rfl⟩

/-- Opcode 1 has format B (R90, R92). -/
theorem decodeWord_of_formatB {w : Word} (h : opField w = 1#4) : decodeWord w = decodeB w .put := by
  simp [decodeWord, h]

/-- Opcode 7 has format I (R90, R92). -/
theorem decodeWord_of_formatI {w : Word} (h : opField w = 7#4) : decodeWord w = decodeI w .peek := by
  simp [decodeWord, h]

/-- A check that answers or refuses refuses exactly where it fails. -/
theorem exists_error_of_ite_iff {c : Prop} [Decidable c] {i : Instr} {r : Illegal} :
    (∃ e, (if c then Except.ok i else Except.error r) = .error e) ↔ ¬c := by
  by_cases h : c <;> simp [h]

/-- A word spells nothing exactly where a reserved bit of its format is set (R95 a to c). -/
theorem decodeWord_error_iff {w : Word} : (∃ e, decodeWord w = .error e) ↔
    ((opField w ≠ 1#4 ∧ opField w ≠ 7#4 ∧ argField w ≠ 0#12) ∨ (opField w = 1#4 ∧ w.extractLsb' 8 4 ≠ 0#4) ∨
      (opField w = 7#4 ∧ w.extractLsb' 6 6 ≠ 0#6)) := by
  by_cases hput : opField w = 1#4
  · simp [decodeWord_of_formatB hput, hput, decodeB, exists_error_of_ite_iff]
  by_cases hpeek : opField w = 7#4
  · simp [decodeWord_of_formatI hpeek, hpeek, decodeI, exists_error_of_ite_iff]
  · obtain ⟨i, hi⟩ := decodeWord_of_formatZ hput hpeek
    simp [hi, hput, hpeek, decodeZ, exists_error_of_ite_iff]

/-- The opcodes 1 to 3 are those illegal on the R port (R95 d). -/
theorem wellFormed_r_eq_false_iff (i : Instr) : WellFormed .r i = false ↔ opField (encode i) ∈ [1#4, 2#4, 3#4] := by
  cases i with
  | put b => exact iff_of_true rfl ((by decide : ∀ b, opField (encode (.put b)) ∈ [1#4, 2#4, 3#4]) b)
  | peek k => exact iff_of_false nofun ((by decide : ∀ k, opField (encode (.peek k)) ∉ [1#4, 2#4, 3#4]) k)
  | _ => decide

/-- The opcodes from 4 are those illegal on the W port (R95 e). -/
theorem wellFormed_w_eq_false_iff (i : Instr) : WellFormed .w i = false ↔ 4 ≤ (opField (encode i)).toNat := by
  cases i with
  | put b => exact iff_of_false nofun ((by decide : ∀ b, ¬4 ≤ (opField (encode (.put b))).toNat) b)
  | peek k => exact iff_of_true rfl ((by decide : ∀ k, 4 ≤ (opField (encode (.peek k))).toNat) k)
  | _ => decide

/-- A word is illegal on a port where it spells nothing or its opcode's class does not admit the port (R95). -/
theorem decode_error_iff {p : Port} {w : Word} : (∃ e, decode p w = .error e) ↔
    ((∃ e, decodeWord w = .error e) ∨ (p = .r ∧ opField w ∈ [1#4, 2#4, 3#4]) ∨ (p = .w ∧ 4 ≤ (opField w).toNat)) := by
  cases h : decodeWord w with
  | error e => exact iff_of_true ⟨e, by simp [decode, h]⟩ (.inl ⟨e, rfl⟩)
  | ok i =>
    have hclass : (∃ e, decode p w = .error e) ↔ WellFormed p i = false := by
      cases hi : WellFormed p i <;> simp [decode, h, hi]
    rw [hclass, ← encode_of_decodeWord h]
    cases p with
    | w => simp [wellFormed_w_eq_false_iff]
    | r => simp [wellFormed_r_eq_false_iff]

/-- Settles O3: the decoder refuses a word for a reserved bit, whatever the port, or for the port of its opcode. -/
theorem illegalWordsAreExactlyThese : Obligations.IllegalWordsAreExactlyThese := by
  intro p w
  refine ⟨?_, fun h => (encode_of_decode h).symm⟩
  rw [decode_error_iff, decodeWord_error_iff, or_assoc, or_assoc]
  exact Iff.rfl

/-! ## The sequencers' words (R93, R96) -/

/-- Settles O4: the six words, each with its fields. -/
theorem wordsWrittenOutDecode : Obligations.WordsWrittenOutDecode :=
  ⟨decode_encode (i := .put 0x41#8) rfl, decode_encode (i := .peek 63#6) rfl, decode_encode (i := .rxbyte) rfl,
    decode_encode (i := .egress) rfl, by decide, by decide⟩

/-- Settles O6: the sequencers' words are those of their tables, and the inner primitives' words are encodings. -/
theorem sequencersPresentOnlyLegalWords : Obligations.SequencersPresentOnlyLegalWords := by
  intro s
  refine ⟨decode_wordW s, fun w hw => ?_, fun _ => decode_encode rfl, decode_encode rfl, decode_encode rfl,
    fun _ => decode_encode rfl, decode_encode rfl, decode_encode rfl, decode_encode rfl⟩
  obtain ⟨row, hrow, -, rfl⟩ := schedulerRow_of_wordR hw
  exact ⟨_, decode_schedulerRows row hrow⟩

end Sys2Proof.Machine
end

section
/-! PROOFS. The responses (R96 to R98): where their fields stand, that an operation answers without `err`, and what an
illegal word does. -/

namespace Sys2Proof.Machine

/-! ## The response word (R98) -/

/-- `err` is bit 15 (R98). -/
theorem responseWord_bit_err (r : Response) : (responseWord r).getLsbD 15 = r.err := by
  simp only [responseWord, BitVec.getLsbD_append]
  simp

/-- `ok` is bit 14 (R98). -/
theorem responseWord_bit_ok (r : Response) : (responseWord r).getLsbD 14 = r.ok := by
  simp only [responseWord, BitVec.getLsbD_append]
  simp

/-- `valid` is bit 13 (R98). -/
theorem responseWord_bit_valid (r : Response) : (responseWord r).getLsbD 13 = r.valid := by
  simp only [responseWord, BitVec.getLsbD_append]
  simp

/-- Bit 12 is reserved and reads 0 (R98). -/
theorem responseWord_bit_reserved (r : Response) : (responseWord r).getLsbD 12 = false := by
  simp only [responseWord, BitVec.getLsbD_append]
  simp

/-- `data` is bits 11 to 0 (R98). -/
theorem responseWord_data (r : Response) : (responseWord r).extractLsb' 0 12 = r.data :=
  BitVec.extractLsb'_append_eq_right

/-! ## Legal answers -/

/-- What an operation makes of a port's response: it stands, or is a new one without `err` (R96, log 5). -/
inductive LegalAnswer (w : Word) : Word → Prop
  | stands : LegalAnswer w w
  | new (r : Response) (hr : r.err = false) : LegalAnswer w (responseWord r)

/-- A legal answer raises no `err`. -/
theorem LegalAnswer.bit_err {w v : Word} (h : LegalAnswer w v) (hv : v.getLsbD 15 = true) : w.getLsbD 15 = true := by
  cases h with
  | stands => exact hv
  | new r hr => exact absurd (hv.symm.trans ((responseWord_bit_err r).trans hr)) (by decide)

/-- A legal answer leaves the reserved bit 0. -/
theorem LegalAnswer.bit_reserved {w v : Word} (h : LegalAnswer w v) (hw : w.getLsbD 12 = false) :
    v.getLsbD 12 = false := by
  cases h with
  | stands => exact hw
  | new r _ => exact responseWord_bit_reserved r

/-- Each port's response stands or is a legal answer. -/
structure AnswersLegally (s t : State) : Prop where
  w : LegalAnswer s.ports.wResp t.ports.wResp
  r : LegalAnswer s.ports.rResp t.ports.rResp

/-- Either way of a test that answers legally. -/
theorem AnswersLegally.ite {s t u : State} {c : Prop} [Decidable c] (ht : AnswersLegally s t)
    (hu : AnswersLegally s u) : AnswersLegally s (if c then t else u) := by
  split
  · exact ht
  · exact hu

/-- A state with the responses of another answers legally. -/
theorem AnswersLegally.refl (s : State) : AnswersLegally s s := ⟨.stands, .stands⟩

/-- The end of an operation of the R domain answers `ok` (R98, R201). -/
theorem AnswersLegally.finishR {s q : State} (k : BitVec 3) (h : AnswersLegally s q) :
    AnswersLegally s (finishR k q) :=
  ⟨h.w, .new _ rfl⟩

/-! ## Every operation answers legally -/

/-- PUT's answer (R111). -/
theorem answersLegally_putOp (b : Byte) (s : State) : AnswersLegally s (respondW (putOp b s).2 (putOp b s).1) := by
  obtain ⟨-, h⟩ | ⟨-, h⟩ := putOp_cases b s <;> rw [h] <;> exact ⟨.new _ rfl, .stands⟩

/-- GET's answer (R113). -/
theorem answersLegally_getOp (s : State) : AnswersLegally s (respondR (getOp s).2 (getOp s).1) := by
  obtain ⟨-, h⟩ | ⟨-, h⟩ := getOp_cases s <;> rw [h] <;> exact ⟨.stands, .new _ rfl⟩

/-- ADV's answer (R115). -/
theorem answersLegally_advOp (s : State) : AnswersLegally s (respondR (advOp s).2 (advOp s).1) := by
  obtain ⟨-, h⟩ | ⟨-, h⟩ := advOp_cases s <;> rw [h] <;> exact ⟨.stands, .new _ rfl⟩

/-- PEEK's answer (R114). -/
theorem peekOp_err (i : BitVec 6) (s : State) : (peekOp i s).err = false := by
  obtain ⟨-, h⟩ | ⟨-, h⟩ := peekOp_cases i s <;> rw [h] <;> rfl

/-- BAUD's step leaves the responses (R171). -/
theorem answersLegally_baudOp (s : State) : AnswersLegally s (baudOp s) := by
  unfold baudOp
  obtain ⟨-, -, h⟩ | ⟨-, h⟩ := applyBaud_cases (lcBaudShown s) s <;> rw [h] <;> exact ⟨.stands, .stands⟩

/-- NOP's answer, on the port that carries it (R110). -/
theorem answersLegally_nopOp (s : State) : AnswersLegally s (nopOp s) := by
  refine ⟨?_, ?_⟩ <;> dsimp only [nopOp] <;> split
  · exact .new _ rfl
  · exact .stands
  · exact .new _ rfl
  · exact .stands

/-- RXBYTE's answers (R141). -/
theorem answersLegally_of_execRxbyte {s t : State} (h : execRxbyte s = .next t) : AnswersLegally s t := by
  unfold execRxbyte at h
  split at h
  next => cases h; exact .ite ⟨.stands, .stands⟩ ⟨.new _ rfl, .stands⟩
  next => split at h <;> cases h; exact ⟨.stands, .stands⟩
  next =>
    cases h
    obtain ⟨hw, hr⟩ := answersLegally_putOp s.scratch.rxd (presentW s (encode (.put s.scratch.rxd)))
    exact ⟨hw, hr⟩
  next => cases h; exact ⟨.new _ rfl, .stands⟩

/-- SVC's answers (R203). -/
theorem answersLegally_of_execSvc {s t : State} (h : execSvc s = .next t) : AnswersLegally s t := by
  unfold execSvc at h
  split at h
  next => cases h; exact ⟨.stands, .stands⟩
  next =>
    cases h
    obtain ⟨hw, hr⟩ := answersLegally_baudOp (presentR s (encode .baud))
    exact .ite (.finishR _ ⟨hw, hr⟩) (.finishR _ (.refl s))
  next => cases h

/-- BANNER's answers (R191). -/
theorem answersLegally_of_execBanner {s t : State} (h : execBanner s = .next t) : AnswersLegally s t := by
  unfold execBanner at h
  split at h
  next => cases h; exact .ite (.finishR _ (.refl s)) ⟨.stands, .stands⟩
  next => cases h; exact .ite ⟨.stands, .stands⟩ (.finishR _ (.refl s))
  next => split at h <;> cases h; exact ⟨.stands, .stands⟩
  next => cases h; exact ⟨.stands, .stands⟩
  next => cases h; exact .finishR _ ⟨.stands, .stands⟩
  next => cases h

/-- EGRESS's answers (R151). -/
theorem answersLegally_of_execEgress {s t : State} (h : execEgress s = .next t) : AnswersLegally s t := by
  unfold execEgress at h
  split at h
  next => cases h; exact .ite ⟨.stands, .stands⟩ (.finishR _ (.refl s))
  next => cases h; exact ⟨.stands, .new _ rfl⟩
  next => cases h; exact ⟨.stands, .stands⟩
  next => cases h; exact ⟨.stands, .stands⟩
  next => cases h; exact .ite (.finishR _ (.refl s)) ⟨.stands, .stands⟩
  next i _ =>
    cases h
    have herr := peekOp_err i (presentR s (encode (.peek i)))
    exact .ite ⟨.stands, .new _ herr⟩ ⟨.stands, .new _ herr⟩
  next => split at h <;> cases h; exact ⟨.stands, .stands⟩
  next => cases h; exact .ite (.finishR _ ⟨.stands, .stands⟩) ⟨.stands, .stands⟩
  next =>
    cases h
    obtain ⟨hw, hr⟩ := answersLegally_advOp (presentR s (encode .adv))
    exact .ite ⟨hw, hr⟩ (.finishR _ ⟨hw, hr⟩)
  next => cases h

/-- INGRESS's answers (R161). -/
theorem answersLegally_of_execIngress {s t : State} (h : execIngress s = .next t) : AnswersLegally s t := by
  unfold execIngress at h
  split at h
  next => cases h; exact .ite ⟨.stands, .stands⟩ (.finishR _ (.refl s))
  next => cases h; exact .ite ⟨.stands, .stands⟩ (.finishR _ (.refl s))
  next => split at h <;> cases h; exact ⟨.stands, .stands⟩
  next => cases h; exact .ite ⟨.stands, .stands⟩ (.refl s)
  next => cases h; exact .ite (.finishR _ (.refl s)) (.finishR _ ⟨.stands, .stands⟩)
  next => cases h

/-- INDIC's answers (R181). -/
theorem answersLegally_of_execIndic {s t : State} (h : execIndic s = .next t) : AnswersLegally s t := by
  unfold execIndic at h
  split at h
  next => cases h; exact ⟨.stands, .stands⟩
  next => cases h; exact ⟨.stands, .stands⟩
  next => cases h; exact .ite (.finishR _ (.refl s)) ⟨.stands, .stands⟩
  next => cases h; exact ⟨.stands, .stands⟩
  next => cases h; exact .finishR _ ⟨.stands, .stands⟩
  next => cases h

/-- BOOT's answers (R205). -/
theorem answersLegally_of_execBoot {s t : State} (h : execBoot s = .next t) : AnswersLegally s t := by
  unfold execBoot at h
  split at h
  next => split at h <;> cases h; exact ⟨.stands, .stands⟩
  next => cases h; exact ⟨.stands, .stands⟩
  next => cases h; exact .finishR _ ⟨.stands, .stands⟩
  next => cases h

/-- Every operation answers legally (R96). -/
theorem answersLegally_of_exec {i : Instr} {s t : State} (h : exec i s = .next t) : AnswersLegally s t := by
  cases i with
  | nop => cases h; exact answersLegally_nopOp s
  | put b => cases h; exact answersLegally_putOp b s
  | touchw => cases h; exact ⟨.new _ rfl, .stands⟩
  | rxbyte => exact answersLegally_of_execRxbyte h
  | baud => cases h; exact ⟨(answersLegally_baudOp s).w, .new _ rfl⟩
  | get => cases h; exact answersLegally_getOp s
  | avail => cases h; exact ⟨.stands, .new _ rfl⟩
  | peek k => cases h; exact ⟨.stands, .new _ (peekOp_err k s)⟩
  | adv => cases h; exact answersLegally_advOp s
  | touchr => cases h; exact ⟨.stands, .new _ rfl⟩
  | svc => exact answersLegally_of_execSvc h
  | banner => exact answersLegally_of_execBanner h
  | egress => exact answersLegally_of_execEgress h
  | ingress => exact answersLegally_of_execIngress h
  | indic => exact answersLegally_of_execIndic h
  | boot => exact answersLegally_of_execBoot h

/-! ## Every step -/

/-- An operation answers legally whatever word stands on its port. -/
theorem answersLegally_of_exec_present {i : Instr} {p : Port} {w : Word} {s t : State}
    (h : exec i (present p s w) = .next t) : AnswersLegally s t := by
  obtain ⟨hw, hr⟩ := answersLegally_of_exec h
  cases p <;> exact ⟨hw, hr⟩

/-- The handler's transition leaves the ports (R224, R226). -/
theorem ports_handlerTransition (s : State) : (handlerTransition s).ports = s.ports := by
  obtain ⟨-, -, -, h⟩ | ⟨-, -, h⟩ | h := handlerTransition_cases s <;> rw [h]

/-- The W sequencer's turn answers legally (R93, R96). -/
theorem answersLegally_of_turnW {s t : State} (h : turnW s = .next t) : AnswersLegally s t := by
  unfold turnW at h
  split at h
  next =>
    obtain ⟨i, hd⟩ := decode_wordW s
    rw [runWord_legal hd] at h
    obtain ⟨hw, hr⟩ := answersLegally_of_exec_present h
    rw [ports_handlerTransition] at hw hr
    exact ⟨hw, hr⟩
  next => exact answersLegally_of_exec h

/-- The R sequencer's turn answers legally (R93, R96). -/
theorem answersLegally_of_turnR {s t : State} (h : turnR s = .next t) : AnswersLegally s t := by
  unfold turnR at h
  split at h
  next => exact answersLegally_of_exec h
  next =>
    split at h
    next hw =>
      obtain ⟨row, hrow, -, rfl⟩ := schedulerRow_of_wordR hw
      rw [runWord_legal (decode_schedulerRows row hrow)] at h
      exact answersLegally_of_exec_present h
    next => cases h

/-- An agent's turn answers legally (R96). -/
theorem answersLegally_of_turnAgent {a : AgentTurn} {s t : State} (h : turnAgent a s = .next t) :
    AnswersLegally s t := by
  cases a with
  | w => exact answersLegally_of_turnW h
  | r => exact answersLegally_of_turnR h
  | syncH | syncT | time | txReady => cases h; exact ⟨.stands, .stands⟩
  | rx b => cases h; exact .ite ⟨.stands, .stands⟩ (.refl s)

/-- A harness's illegal word answers `err` on its port (R97). -/
theorem step_of_harness_illegal {s : State} {p : Port} {w : Word} {e : Illegal} (ht : nextTurn s = .harness p w)
    (hd : decode p w = .error e) : step s = .next (raiseIllegal p (present p (beginStep s) w)) := by
  simp only [step_of_harness ht, turnHarness, hd]

/-- A step answers legally, or a harness presents an illegal word (R96, R97). -/
theorem answersLegally_of_step {s t : State} (h : step s = .next t) :
    AnswersLegally s t ∨ ∃ p w e, nextTurn s = .harness p w ∧ decode p w = .error e := by
  cases ht : nextTurn s with
  | agent a =>
    rw [step_of_agent ht] at h
    obtain ⟨hw, hr⟩ := answersLegally_of_turnAgent h
    exact .inl ⟨hw, hr⟩
  | harness p w =>
    rw [step_of_harness ht, turnHarness] at h
    split at h
    next e hd => exact .inr ⟨p, w, e, rfl, hd⟩
    next =>
      split at h
      next => cases h
      next =>
        obtain ⟨hw, hr⟩ := answersLegally_of_exec_present h
        exact .inl ⟨hw, hr⟩

/-- Settles O5: the illegal word stands on its port and is answered 0x8000; nothing else is touched. -/
theorem illegalWordOnlyAnswersErr : Obligations.IllegalWordOnlyAnswersErr := by
  intro s p w e ht hd
  refine ⟨_, step_of_harness_illegal ht hd, ?_⟩
  cases p with
  | w => exact ⟨rfl, rfl, fun _ => ⟨responseWord_err, rfl⟩, nofun⟩
  | r => exact ⟨rfl, rfl, nofun, fun _ => ⟨responseWord_err, rfl⟩⟩

/-- Settles O7: the fields stand where `responseWord` puts them, and a step that is not a harness's illegal word answers
legally. -/
theorem errComesOnlyFromIllegalWords : Obligations.ErrComesOnlyFromIllegalWords := by
  refine ⟨fun r => ⟨responseWord_bit_err r, responseWord_bit_ok r, responseWord_bit_valid r,
    responseWord_bit_reserved r, responseWord_data r⟩, fun s t h => ?_⟩
  obtain ⟨hw, hr⟩ | ⟨p, w, e, ht, hd⟩ := answersLegally_of_step h
  · exact ⟨fun hv => .inl (hw.bit_err hv), fun hv => .inl (hr.bit_err hv), hw.bit_reserved, hr.bit_reserved⟩
  · rw [step_of_harness_illegal ht hd] at h
    cases h
    have hzero := responseWord_bit_reserved errResponse
    cases p with
    | w => exact ⟨fun _ => .inr ⟨w, e, ht, hd⟩, .inl, fun _ => hzero, id⟩
    | r => exact ⟨.inl, fun _ => .inr ⟨w, e, ht, hd⟩, id, fun _ => hzero⟩

end Sys2Proof.Machine
end

section
/-! PROOFS. The micro-steps of EGRESS and INGRESS, line by line (R151, R161). -/

namespace Sys2Proof.Machine

/-- The end of an operation of the R domain, in the words of the statements (R98, R201). -/
theorem ended_finishR (k : BitVec 3) (s : State) : Ended k s (finishR k s) := by
  refine ⟨?_, fun hk => by simp [hk, nextSchedStep]⟩
  rw [← show responseWord (plainResponse true) = 0x4000#16 from responseWord_plain true]
  rfl

/-! ## EGRESS (R151) -/

/-- E1 keeps the count that AVAIL answers (R116, R151). -/
theorem egressE1_eq (s : State) : egressE1 s =
    { respondR (presentR s (encode .avail)) (availOp (presentR s (encode .avail))) with
      ustep := .e2, scratch := { s.scratch with egA := s.ring.headR - s.ring.tail } } := by
  have hcount : (availOp (presentR s (encode .avail))).data.zeroExtend Config.AW = s.ring.headR - s.ring.tail :=
    BitVec.eq_of_toNat_eq (availOp_data_toNat _)
  rw [egressE1, hcount]

/-- E5 where PEEK answers a byte (R114, R151). -/
theorem egressE5_of_lt {i : BitVec 6} {s : State} (h : i.toNat < (s.ring.headR - s.ring.tail).toNat) :
    egressE5 i s =
      { respondR (presentR s (encode (.peek i))) (peekOp i (presentR s (encode (.peek i)))) with
        ustep := if i.toNat + 1 < s.scratch.egK.toNat then .e5 (i + 1#6) else .e6
        scratch := { s.scratch with
          egBuf := s.scratch.egBuf.set i.toNat (memRead s (s.ring.tail + i.zeroExtend 12))
          egGot := BitVec.ofNat 7 (i.toNat + 1) } } := by
  obtain ⟨-, e⟩ | ⟨hnone, -⟩ := egressE5_cases i s
  · obtain ⟨-, hp⟩ | ⟨hnone, -⟩ := peekOp_cases i (presentR s (encode (.peek i)))
    · rw [e, hp]
      rfl
    · exact absurd h hnone.not_gt
  · exact absurd h hnone.not_gt

/-- E5 where PEEK has no byte (R114, R151). -/
theorem egressE5_of_le {i : BitVec 6} {s : State} (h : (s.ring.headR - s.ring.tail).toNat ≤ i.toNat) :
    egressE5 i s =
      { respondR (presentR s (encode (.peek i))) (peekOp i (presentR s (encode (.peek i)))) with ustep := .e6 } := by
  obtain ⟨hbyte, -⟩ | ⟨-, e⟩ := egressE5_cases i s
  · exact absurd hbyte h.not_gt
  · obtain ⟨hbyte, -⟩ | ⟨-, hp⟩ := peekOp_cases i (presentR s (encode (.peek i)))
    · exact absurd hbyte h.not_gt
    · rw [e, hp]

/-- Settles O34: each position is the line of R151 it is named after, and each test selects its branch. -/
theorem egressMicroSteps : Obligations.EgressMicroSteps := by
  intro s
  refine ⟨fun hu hconn => ?e0End, fun hu hconn => ?e0, fun hu => ?e1, fun hu => ?e2, fun hu => ?e3, fun hu hk => ?e4End,
    fun hu hk => ?e4, fun i hu => ?e5, fun offered acc hu hconn hoffered hacc => ?e6, fun hu hacc => ?e7,
    fun hu hacc => ?e7End, fun j hu => ?e8⟩
  all_goals simp only [exec, execEgress, hu]
  case e0End => exact ⟨_, by simp [egressE0, hconn], ended_finishR 3#3 s⟩
  case e0 => simp [egressE0, hconn]
  case e1 => exact ⟨_, rfl, congrArg _ (egressE1_eq s)⟩
  case e2 => rfl
  case e3 => exact ⟨egressTarget s, egressTarget_toNat s, rfl⟩
  case e4End => exact ⟨_, by simp [egressE4, hk], ended_finishR 3#3 s⟩
  case e4 => simp [egressE4, hk]
  case e5 => exact ⟨_, rfl, fun h => congrArg _ (egressE5_of_lt h), fun h => congrArg _ (egressE5_of_le h)⟩
  case e6 =>
    subst hoffered hacc
    rw [if_pos hconn]
    rfl
  case e7 => exact congrArg _ (if_neg hacc)
  case e7End => exact ⟨_, congrArg _ (if_pos hacc), ended_finishR 3#3 (usbFlush s)⟩
  case e8 =>
    refine ⟨_, rfl, fun hmore => congrArg _ (if_pos hmore), fun hlast => ?_⟩
    exact ⟨_, congrArg _ (if_neg hlast.not_gt), ended_finishR 3#3 _⟩

/-! ## INGRESS (R161) -/

/-- After a read, `in_n` is the number of bytes read (R161, R247). -/
theorem usbRead_inN_toNat (s : State) : (usbRead s).scratch.inN.toNat = min s.usb.rx.length 64 := by
  have hlen : (s.usb.rx.take 64).length = min s.usb.rx.length 64 := by rw [List.length_take, Nat.min_comm]
  exact (count_toNat (List.length_take_le _ _)).trans hlen

/-- I2 where host bytes wait (R161). -/
theorem ingressI2_of_ne_nil {s : State} (hrx : s.usb.rx ≠ []) :
    ingressI2 s = { usbRead s with ustep := .i3 0#6 } := by
  have hpos : 0 < (usbRead s).scratch.inN.toNat := by
    rw [usbRead_inN_toNat]
    exact Nat.lt_min.2 ⟨List.length_pos_of_ne_nil hrx, by decide⟩
  rw [ingressI2, if_neg (count_pos_iff.1 hpos)]

/-- I2 where no host byte waits: the read is empty (R161, log 4). -/
theorem ingressI2_of_nil {s : State} (hrx : s.usb.rx = []) :
    ingressI2 s = { s with
      ustep := .i4, scratch := { s.scratch with inN := 0#7 }, strobes := { s.strobes with usbRd := true } } := by
  simp only [ingressI2, usbRead, hrx, List.drop_nil, List.take_nil, List.length_nil, List.nil_append, List.drop_zero,
    if_true]
  have husb : { s.usb with rx := [] } = s.usb := congrArg (fun l => { s.usb with rx := l }) hrx.symm
  rw [husb]

/-- Settles O37: each position is the line of R161 it is named after, and each test selects its branch. -/
theorem ingressMicroSteps : Obligations.IngressMicroSteps := by
  intro s
  refine ⟨fun hu hconn => ?i0End, fun hu hconn => ?i0, fun hu hrx => ?i1End, fun hu hrx => ?i1, fun hu hconn hrx => ?i2,
    fun hu hconn hrx => ?i2Empty, fun j hu hbusy => ?i3Wait, fun j b hu hready hb => ?i3, fun hu hn => ?i4End,
    fun hu hn => ?i4⟩
  all_goals simp only [exec, execIngress, hu]
  case i0End => exact ⟨_, by simp [ingressI0, hconn], ended_finishR 4#3 s⟩
  case i0 => simp [ingressI0, hconn]
  case i1End => exact ⟨_, by simp [ingressI1, usbRdAvail, hrx], ended_finishR 4#3 s⟩
  case i1 => simp [ingressI1, usbRdAvail, hrx]
  case i2 =>
    refine ⟨(usbRead s).scratch.inN, usbRead_inN_toNat s, ?_⟩
    rw [if_pos hconn, ingressI2_of_ne_nil hrx, usbRead_inN_toNat, Nat.min_comm, ← List.length_take]
    rfl
  case i2Empty =>
    rw [if_pos hconn, ingressI2_of_nil hrx]
  case i3Wait => simp [ingressI3, uartTxReady, hbusy]
  case i3 =>
    have hbyte : ingressByte s j = b := by rw [ingressByte, List.getD_eq_getElem?_getD, hb, Option.getD_some]
    rw [← hbyte]
    exact congrArg _ (if_pos hready)
  case i4End => exact ⟨_, congrArg _ (if_pos hn), ended_finishR 4#3 s⟩
  case i4 =>
    have hended := ended_finishR 4#3 (respondR (touch (presentR s (encode .touchr))) (plainResponse true))
    exact ⟨_, _, rfl, congrArg _ (if_neg hn), hended⟩

end Sys2Proof.Machine
end

section
/-! PROOFS. Words presented by a harness (R99, R102, log 33): what COMMIT's, PUTS's and ISR's words make of the
state, one after the other. -/

namespace Sys2Proof.Machine

/-! ## A word presented by a harness (R99) -/

/-- The W port is free between two operations. -/
theorem portFree_w_iff {s : State} : portFree .w s = true ↔ s.wstep = .idle := decide_eq_true_iff

/-- The R port is free between two operations. -/
theorem portFree_r_iff {s : State} : portFree .r s = true ↔ s.ustep = .idle := decide_eq_true_iff

/-- A port that is free ends the run at once. -/
theorem runToFree_of_portFree {p : Port} {s : State} (h : portFree p s = true) (n : Nat) :
    runToFree p n s = .next s := by
  cases n with
  | zero => rfl
  | succ n => simp only [runToFree, h, if_true]

/-- A port that is not free takes the next turn of the domain behind it. -/
theorem runToFree_succ_of_step {p : Port} {s t : State} {n : Nat} (hbusy : portFree p s = false)
    (h : step (decideTurn (.agent (portAgent p)) s) = .next t) : runToFree p (n + 1) s = runToFree p n t := by
  have h' : stepTurn (decideTurn (.agent (portAgent p)) s) = .next t := h
  simp only [runToFree, hbusy, h', Bool.false_eq_true, if_false]

/-- The state from which a harness's word `w` on port `p` is executed. -/
def harnessStart (p : Port) (w : Word) (s : State) : State :=
  present p (beginStep (decideTurn (.harness p w) s)) w

/-- Presenting a word touches no register. -/
theorem architectural_harnessStart (p : Port) (w : Word) (s : State) :
    architectural (harnessStart p w s) = architectural s := by
  cases p <;> rfl

/-- A harness's legal word is executed, and the domain goes on until its port is free (R99). -/
theorem harnessWord_of_exec {p : Port} {i : Instr} {s t : State} (hi : WellFormed p i = true)
    (hfree : harnessRefusal p s = none) (h : exec i (harnessStart p (encode i) s) = .next t) :
    harnessWord p (encode i) s = runToFree p longestOp t := by
  have hturn : nextTurn (decideTurn (.harness p (encode i)) s) = .harness p (encode i) := rfl
  have hfree' : harnessRefusal p (beginStep (decideTurn (.harness p (encode i)) s)) = none := by
    cases p <;> exact hfree
  have hstep : stepTurn (decideTurn (.harness p (encode i)) s) = .next t :=
    (step_of_harness_legal hturn (decode_encode hi) hfree').trans h
  simp only [harnessWord, hstep]

/-- A list of words is presented word by word. -/
theorem harnessWords_cons {p : Port} {w : Word} {ws : List Word} {s t : State} (h : harnessWord p w s = .next t) :
    harnessWords p (w :: ws) s = harnessWords p ws t := by
  simp only [harnessWords, h]

/-! ## COMMIT (R102, R115) -/

/-- `n` positions released, at most as many as are visible (R102, R115). -/
def Ring.advanced (n : Nat) (r : Ring) : Ring :=
  { r with tail := r.tail + BitVec.ofNat 12 (min n (r.headR - r.tail).toNat) }

/-- None released. -/
theorem Ring.advanced_zero (r : Ring) : r.advanced 0 = r := by
  simp [Ring.advanced]

/-- With no byte visible none is released. -/
theorem Ring.advanced_of_empty {r : Ring} (h : r.headR = r.tail) (n : Nat) : r.advanced n = r := by
  have htail : r.tail + BitVec.ofNat 12 (min n (r.headR - r.tail).toNat) = r.tail := by simp [h]
  rw [Ring.advanced, htail]

/-- The first of the visible bytes is released, then `n` more at most. -/
theorem Ring.advanced_succ {r : Ring} (h : r.headR ≠ r.tail) (n : Nat) :
    r.advanced (n + 1) = r.released.advanced n := by
  simp only [Ring.advanced]
  rw [succ_add_ofNat, ← Nat.add_min_add_right, sub_succ_toNat _ _ h]

/-- One position, then `n` more. -/
theorem Ring.advanced_one_advanced (n : Nat) (r : Ring) : (r.advanced 1).advanced n = r.advanced (n + 1) := by
  by_cases h : r.headR = r.tail
  · simp only [Ring.advanced_of_empty h]
  · rw [Ring.advanced_succ h, Ring.advanced_succ h, Ring.advanced_zero]

/-- ADV releases one visible byte and writes no other register (R115). -/
theorem exec_adv_architectural (s : State) :
    ∃ t, exec .adv s = .next t ∧ architectural t = { architectural s with ring := s.ring.advanced 1 } := by
  refine ⟨_, rfl, ?_⟩
  obtain ⟨hempty, e⟩ | ⟨avail, e⟩ := advOp_cases s
  · rw [e, Ring.advanced_of_empty hempty]
    rfl
  · rw [e, Ring.advanced_succ avail, Ring.advanced_zero]
    rfl

/-- A harness's ADV (R99, R115). -/
theorem harnessWord_adv {s : State} (hu : s.ustep = .idle) :
    ∃ t, harnessWord .r (encode .adv) s = .next t ∧
      architectural t = { architectural s with ring := s.ring.advanced 1 } := by
  have hfree : harnessRefusal .r s = none := by simp [harnessRefusal, hu]
  obtain ⟨t, ht, e⟩ := exec_adv_architectural (harnessStart .r (encode .adv) s)
  have hu' : t.ustep = .idle := (congrArg (·.ustep) e).trans hu
  exact ⟨t, (harnessWord_of_exec rfl hfree ht).trans (runToFree_of_portFree (portFree_r_iff.2 hu') _), e⟩

/-- A harness's `n` ADVs (R102, R115). -/
theorem harnessWords_advs (n : Nat) {s : State} (hu : s.ustep = .idle) :
    ∃ t, harnessWords .r (List.replicate n (encode .adv)) s = .next t ∧
      architectural t = { architectural s with ring := s.ring.advanced n } := by
  induction n generalizing s with
  | zero => exact ⟨s, rfl, by rw [Ring.advanced_zero]; rfl⟩
  | succ n ih =>
    obtain ⟨t, ht, e⟩ := harnessWord_adv hu
    have hring : t.ring = s.ring.advanced 1 := congrArg (·.ring) e
    obtain ⟨v, hv, e'⟩ := ih (s := t) ((congrArg (·.ustep) e).trans hu)
    refine ⟨v, (harnessWords_cons ht).trans hv, ?_⟩
    rw [e', e, hring, Ring.advanced_one_advanced]

/-! ## PUTS (R102, R111) -/

/-- The ring after PUT of a byte: stored, unless the producer sees no room (R111). -/
def Ring.put (r : Ring) (b : Byte) : Ring := if r.head + 1#12 = r.tailW then r else r.stored b

/-- What PUT's step makes of the state (R111). -/
theorem putOp_state (b : Byte) (s : State) : (putOp b s).2 = { s with ring := s.ring.put b } := by
  obtain ⟨hfull, e⟩ | ⟨room, e⟩ := putOp_cases b s
  · rw [e, Ring.put, if_pos hfull]
  · rw [e, Ring.put, if_neg room]

/-- PUT writes no register besides the ring (R111). -/
theorem exec_put_architectural (b : Byte) (s : State) :
    ∃ t, exec (.put b) s = .next t ∧ architectural t = { architectural s with ring := s.ring.put b } :=
  ⟨_, rfl, by rw [putOp_state]; rfl⟩

/-- PUT leaves `tail` (R111). -/
theorem Ring.put_tail (r : Ring) (b : Byte) : (r.put b).tail = r.tail := by
  unfold Ring.put
  split <;> rfl

/-- PUTs one after the other leave `tail`. -/
theorem Ring.foldl_put_tail (bs : List Byte) (r : Ring) : (bs.foldl Ring.put r).tail = r.tail := by
  induction bs generalizing r with
  | nil => rfl
  | cons b bs ih => exact (ih _).trans (r.put_tail b)

/-- A list of PUTs run one after the other (R111). -/
theorem execAll_puts_architectural (bs : List Byte) (s : State) :
    ∃ t, execAll (bs.map .put) s = .next t ∧
      architectural t = { architectural s with ring := bs.foldl Ring.put s.ring } := by
  induction bs generalizing s with
  | nil => exact ⟨s, rfl, rfl⟩
  | cons b bs ih =>
    obtain ⟨t, ht, e⟩ := exec_put_architectural b s
    have hring : t.ring = s.ring.put b := congrArg (·.ring) e
    obtain ⟨v, hv, e'⟩ := ih t
    refine ⟨v, ?_, ?_⟩
    · simp only [List.map_cons, execAll, ht, hv]
    · rw [e', e, hring, List.foldl_cons]

/-- A harness may use the W port (R99). -/
abbrev FreeW (s : State) : Prop := s.isrState = .idle ∧ s.irqEn = false ∧ s.wstep = .idle

/-- A harness's words are taken on the W port where it is free (R99). -/
theorem FreeW.harnessRefusal_eq_none {s : State} (h : FreeW s) : harnessRefusal .w s = none :=
  (harnessRefusal_eq_none_iff .w s).2 ⟨fun _ => h, nofun⟩

/-- A step that leaves the handler, the interrupt and RXBYTE alone leaves the W port free. -/
theorem FreeW.congr {s t : State} (h : FreeW s) (hisr : t.isrState = s.isrState) (hirq : t.irqEn = s.irqEn)
    (hw : t.wstep = s.wstep) : FreeW t := by
  obtain ⟨hisr', hirq', hw'⟩ := h
  exact ⟨hisr.trans hisr', hirq.trans hirq', hw.trans hw'⟩

/-- A harness's PUT (R99, R111). -/
theorem harnessWord_put (b : Byte) {s : State} (hfree : FreeW s) :
    ∃ t, harnessWord .w (encode (.put b)) s = .next t ∧
      architectural t = { architectural s with ring := s.ring.put b } := by
  obtain ⟨t, ht, e⟩ := exec_put_architectural b (harnessStart .w (encode (.put b)) s)
  have hw : t.wstep = .idle := (congrArg (·.wstep) e).trans hfree.2.2
  exact ⟨t, (harnessWord_of_exec rfl hfree.harnessRefusal_eq_none ht).trans
    (runToFree_of_portFree (portFree_w_iff.2 hw) _), e⟩

/-- A harness's PUTs, one after the other (R102, R111). -/
theorem harnessWords_puts (bs : List Byte) {s : State} (hfree : FreeW s) :
    ∃ t, harnessWords .w ((bs.map .put).map encode) s = .next t ∧
      architectural t = { architectural s with ring := bs.foldl Ring.put s.ring } := by
  induction bs generalizing s with
  | nil => exact ⟨s, rfl, rfl⟩
  | cons b bs ih =>
    obtain ⟨t, ht, e⟩ := harnessWord_put b hfree
    have hring : t.ring = s.ring.put b := congrArg (·.ring) e
    have hfree' : FreeW t := hfree.congr (congrArg (·.isrState) e) (congrArg (·.irqEn) e) (congrArg (·.wstep) e)
    obtain ⟨v, hv, e'⟩ := ih hfree'
    refine ⟨v, (harnessWords_cons ht).trans hv, ?_⟩
    rw [e', e, hring, List.foldl_cons]

/-! ## ISR (R102, R141) -/

/-- X0 of RXBYTE where a byte waits (R141). -/
theorem execRxbyte_idle {s : State} (hw : s.wstep = .idle) (hrx : s.uart.rx ≠ []) :
    execRxbyte s = .next { s with wstep := .x1 } := by
  have havail : uartRxAvail s = true := by simp [uartRxAvail, hrx]
  simp only [execRxbyte, hw, rxbyteX0, havail, if_true]

/-- The W domain goes on with an RXBYTE in progress (R142). -/
theorem runToFree_of_execRxbyte {s t : State} {n : Nat} (hbusy : s.wstep ≠ .idle)
    (h : execRxbyte (beginStep (decideTurn (.agent .w) s)) = .next t) : runToFree .w (n + 1) s = runToFree .w n t :=
  runToFree_succ_of_step (by simp [portFree, hbusy])
    ((step_of_agent_w rfl).trans ((turnW_of_busy (s := beginStep (decideTurn (.agent .w) s)) hbusy).trans h))

/-- X1 pops the oldest byte into `rxd` (R141). -/
theorem runToFree_x1 {s : State} {b : Byte} {rest : List Byte} (n : Nat) (hw : s.wstep = .x1)
    (hrx : s.uart.rx = b :: rest) :
    ∃ t, runToFree .w (n + 1) s = runToFree .w n t ∧ architectural t = { architectural s with
      wstep := .x2
      uart := { (architectural s).uart with rx := rest }
      scratch := { (architectural s).scratch with rxd := b } } := by
  refine ⟨{ uartPop (beginStep (decideTurn (.agent .w) s)) b rest with wstep := .x2 }, ?_, rfl⟩
  refine runToFree_of_execRxbyte (by simp [hw]) ?_
  simp only [execRxbyte, beginStep_fields, decideTurn_fields, hw, hrx]

/-- X2 is PUT of `rxd` (R141). -/
theorem runToFree_x2 {s : State} (n : Nat) (hw : s.wstep = .x2) :
    ∃ t, runToFree .w (n + 1) s = runToFree .w n t ∧ architectural t = { architectural s with
      wstep := .x3, ring := (architectural s).ring.put (architectural s).scratch.rxd } := by
  refine ⟨rxbyteX2 (beginStep (decideTurn (.agent .w) s)), ?_, ?_⟩
  · refine runToFree_of_execRxbyte (by simp [hw]) ?_
    simp only [execRxbyte, beginStep_fields, decideTurn_fields, hw]
  · rw [rxbyteX2, putOp_state]
    rfl

/-- The registers after X3 (R141). -/
theorem architectural_rxbyteX3 (s : State) :
    architectural (rxbyteX3 s) = { architectural s with wstep := .idle, lastActivity := (architectural s).nowMs } := rfl

/-- X3 stamps the clock and ends RXBYTE (R141). -/
theorem runToFree_x3 {s : State} (n : Nat) (hw : s.wstep = .x3) :
    ∃ t, runToFree .w (n + 1) s = .next t ∧
      architectural t = { architectural s with wstep := .idle, lastActivity := (architectural s).nowMs } := by
  refine ⟨rxbyteX3 (beginStep (decideTurn (.agent .w) s)), ?_, ?_⟩
  · refine (runToFree_of_execRxbyte (by simp [hw]) ?_).trans (runToFree_of_portFree (portFree_w_iff.2 ?_) n)
    · simp only [execRxbyte, beginStep_fields, decideTurn_fields, hw]
    · rw [rxbyteX3]
  · exact architectural_rxbyteX3 _

/-- A harness's RXBYTE that finds `b` before `rest` (R99, R141, R143). -/
theorem harnessWord_rxbyte {s : State} {b : Byte} {rest : List Byte} (hfree : FreeW s) (hrx : s.uart.rx = b :: rest) :
    ∃ t, harnessWord .w (encode .rxbyte) s = .next t ∧
      architectural t = { architectural s with
        ring := s.ring.put b
        lastActivity := s.nowMs
        uart := { s.uart with rx := rest }
        scratch := { s.scratch with rxd := b } } := by
  have hx0 : exec .rxbyte (harnessStart .w (encode .rxbyte) s) =
      .next { harnessStart .w (encode .rxbyte) s with wstep := .x1 } :=
    execRxbyte_idle hfree.2.2 (hrx.trans_ne (List.cons_ne_nil b rest))
  obtain ⟨t1, h1, e1⟩ := runToFree_x1 (s := { harnessStart .w (encode .rxbyte) s with wstep := .x1 }) (132 + 2) rfl hrx
  have hw1 : t1.wstep = .x2 := congrArg (·.wstep) e1
  obtain ⟨t2, h2, e2⟩ := runToFree_x2 (132 + 1) hw1
  have hw2 : t2.wstep = .x3 := congrArg (·.wstep) e2
  obtain ⟨t3, h3, e3⟩ := runToFree_x3 132 hw2
  refine ⟨t3, ?_, ?_⟩
  · rw [harnessWord_of_exec rfl hfree.harnessRefusal_eq_none hx0]
    exact h1.trans (h2.trans h3)
  · rw [e3, e2, e1]
    obtain ⟨-, -, hw⟩ := hfree
    simp [architectural, harnessStart, present, hw]

/-- A harness's RXBYTEs, one for each byte of the FIFO (R102, R143). -/
theorem harnessIsr_architectural (bs : List Byte) {s : State} (hfree : FreeW s) (hrx : s.uart.rx = bs) :
    ∃ t, harnessIsr bs.length s = .next t ∧ (bs = [] → t = s) ∧ (bs ≠ [] → t.lastActivity = s.nowMs) ∧
      architectural t = { architectural s with
        ring := bs.foldl Ring.put s.ring
        lastActivity := t.lastActivity
        uart := { s.uart with rx := [] }
        scratch := { s.scratch with rxd := bs.getLastD s.scratch.rxd } } := by
  induction bs generalizing s with
  | nil =>
    have huart : { s.uart with rx := [] } = s.uart := congrArg (fun l => { s.uart with rx := l }) hrx.symm
    exact ⟨s, rfl, fun _ => rfl, fun h => absurd rfl h, by rw [huart]; rfl⟩
  | cons b rest ih =>
    obtain ⟨t, ht, e⟩ := harnessWord_rxbyte hfree hrx
    have hfree' : FreeW t := hfree.congr (congrArg (·.isrState) e) (congrArg (·.irqEn) e) (congrArg (·.wstep) e)
    obtain ⟨v, hv, hnil, hcons, e'⟩ := ih hfree' (congrArg (·.uart.rx) e)
    have hnow : t.lastActivity = s.nowMs := congrArg (·.lastActivity) e
    have hnow' : t.nowMs = s.nowMs := congrArg (·.nowMs) e
    have hring : t.ring = s.ring.put b := congrArg (·.ring) e
    have huart : t.uart = { s.uart with rx := rest } := congrArg (·.uart) e
    have hscratch : t.scratch = { s.scratch with rxd := b } := congrArg (·.scratch) e
    have havail : uartRxAvail s = true := by simp [uartRxAvail, hrx]
    refine ⟨v, ?_, nofun, fun _ => ?_, ?_⟩
    · simp only [List.length_cons, harnessIsr, havail, ht, hv, if_true]
    · cases rest with
      | nil => rw [hnil rfl, hnow]
      | cons => rw [hcons (List.cons_ne_nil _ _), hnow']
    · rw [e', e, hring, huart, hscratch, List.foldl_cons, List.getLastD_cons]

end Sys2Proof.Machine
end

section
/-! PROOFS. ITER and the pseudo-operations (R102, log 33): an operation of the main loop runs to its end (R157, R207),
since each of its micro-steps, taken with the UART ready, ends it or brings the end closer. -/

namespace Sys2Proof.Machine

/-! ## How far the end is -/

/-- How many micro-steps the operation in progress still takes at most (R157); between two operations, those of the
longest. -/
def stepsLeft : UStep → Nat
  | .idle => 135
  | .s1 => 1
  | .b1 => 4
  | .b2 => 3
  | .b3 => 2
  | .b4 => 1
  | .e1 => 134
  | .e2 => 133
  | .e3 => 132
  | .e4 => 131
  | .e5 i => 130 - i.toNat
  | .e6 => 66
  | .e7 => 65
  | .e8 j => 64 - j.toNat
  | .i1 => 67
  | .i2 => 66
  | .i3 j => 65 - j.toNat
  | .i4 => 1
  | .l1 => 4
  | .l2 => 3
  | .l3 => 2
  | .l4 => 1
  | .t1 => 2
  | .t2 => 1

/-- A micro-step of operation `i`, which has number `k` in the main loop, ends it or brings the end closer; `sched_step`
moves with the end (R201). -/
inductive Advances (k : BitVec 3) (i : Instr) (s : State) : State → Prop
  | ends {q : State} (hk : q.schedStep = s.schedStep) : Advances k i s (finishR k q)
  | goesOn {t : State} {u : UStep} (v : UStep) (hk : t.schedStep = s.schedStep) (hu : s.ustep = u) (hv : t.ustep = v)
    (hi : inProgressR v = some i) (hless : stepsLeft v < stepsLeft u) : Advances k i s t

/-- Either way of a test. -/
theorem Advances.ite {k : BitVec 3} {i : Instr} {s t u : State} {c : Prop} [Decidable c] (ht : Advances k i s t)
    (hu : Advances k i s u) : Advances k i s (if c then t else u) := by
  split
  · exact ht
  · exact hu

/-- The R domain stands at the first micro-step of operation `i` or inside it. -/
abbrev StandsAt (i : Instr) (s : State) : Prop := s.ustep = .idle ∨ inProgressR s.ustep = some i

/-! ## The five operations of the main loop -/

/-- BAUD's step leaves `sched_step` (R171). -/
theorem schedStep_baudOp (s : State) : (baudOp s).schedStep = s.schedStep := by
  unfold baudOp
  obtain ⟨-, -, h⟩ | ⟨-, h⟩ := applyBaud_cases (lcBaudShown s) s <;> rw [h] <;> rfl

/-- ADV leaves `sched_step` (R115). -/
theorem schedStep_advOp (s : State) : (advOp s).2.schedStep = s.schedStep := by
  obtain ⟨-, h⟩ | ⟨-, h⟩ := advOp_cases s <;> rw [h]

/-- SVC (R203). -/
theorem execSvc_advances {s : State} (hs : StandsAt .svc s) : ∃ t, execSvc s = .next t ∧ Advances 1#3 .svc s t := by
  cases hu : s.ustep with
  | idle => rw [execSvc, hu]; exact ⟨_, rfl, .goesOn .s1 rfl hu rfl rfl (by decide)⟩
  | s1 => rw [execSvc, hu]; exact ⟨_, rfl, .ite (.ends (schedStep_baudOp _)) (.ends rfl)⟩
  | _ => simp [StandsAt, hu, inProgressR] at hs

/-- BANNER, with the host connected where B1 found it so (R191). -/
theorem execBanner_advances {s : State} (hs : StandsAt .banner s) (hat : AtStep s s.ustep) :
    ∃ t, execBanner s = .next t ∧ Advances 2#3 .banner s t := by
  cases hu : s.ustep with
  | idle => rw [execBanner, hu]; exact ⟨_, rfl, .ite (.ends rfl) (.goesOn .b1 rfl hu rfl rfl (by decide))⟩
  | b1 => rw [execBanner, hu]; exact ⟨_, rfl, .ite (.goesOn .b2 rfl hu rfl rfl (by decide)) (.ends rfl)⟩
  | b2 =>
    rw [hu] at hat
    obtain ⟨-, hconn⟩ := hat
    rw [execBanner, hu]
    exact ⟨_, if_pos hconn, .goesOn .b3 rfl hu rfl rfl (by decide)⟩
  | b3 => rw [execBanner, hu]; exact ⟨_, rfl, .goesOn .b4 rfl hu rfl rfl (by decide)⟩
  | b4 => rw [execBanner, hu]; exact ⟨_, rfl, .ends rfl⟩
  | _ => simp [StandsAt, hu, inProgressR] at hs

/-- After a byte of EGRESS's copy (R151 E5). -/
theorem egressCopy_advances {s : State} {i : BitVec 6} (hu : s.ustep = .e5 i) (hk : s.scratch.egK.toNat ≤ 64) :
    Advances 3#3 .egress s (egressCopy i s) := by
  have hi := i.isLt
  by_cases hmore : i.toNat + 1 < s.scratch.egK.toNat
  · have hnext : (i + 1#6).toNat = i.toNat + 1 := by bv_omega
    refine .goesOn _ rfl hu (if_pos hmore) rfl ?_
    simp only [stepsLeft, hnext]
    omega
  · refine .goesOn _ rfl hu (if_neg hmore) rfl ?_
    simp only [stepsLeft]
    omega

/-- After an ADV of EGRESS (R151 E8). -/
theorem egressE8_advances {s : State} {j : Count} (hu : s.ustep = .e8 j) (hacc : s.scratch.egAcc.toNat ≤ 64) :
    Advances 3#3 .egress s (egressE8 j s) := by
  have hsched : (advOp (presentR s (encode .adv))).2.schedStep = s.schedStep := schedStep_advOp _
  by_cases hmore : j.toNat + 1 < s.scratch.egAcc.toNat
  · have hnext : (j + 1#7).toNat = j.toNat + 1 := by bv_omega
    rw [egressE8, if_pos hmore]
    refine .goesOn _ hsched hu rfl rfl ?_
    simp only [stepsLeft, hnext]
    omega
  · rw [egressE8, if_neg hmore]
    exact .ends hsched

/-- EGRESS, with the host connected where E0 found it so (R151). -/
theorem execEgress_advances {s : State} (hs : StandsAt .egress s) (hat : AtStep s s.ustep) (hr : Ranges s) :
    ∃ t, execEgress s = .next t ∧ Advances 3#3 .egress s t := by
  obtain ⟨-, -, hegK, -, hegAcc, -⟩ := hr
  cases hu : s.ustep with
  | idle => rw [execEgress, hu]; exact ⟨_, rfl, .ite (.goesOn .e1 rfl hu rfl rfl (by decide)) (.ends rfl)⟩
  | e1 => rw [execEgress, hu]; exact ⟨_, rfl, .goesOn .e2 rfl hu rfl rfl (by decide)⟩
  | e2 => rw [execEgress, hu]; exact ⟨_, rfl, .goesOn .e3 rfl hu rfl rfl (by decide)⟩
  | e3 => rw [execEgress, hu]; exact ⟨_, rfl, .goesOn .e4 rfl hu rfl rfl (by decide)⟩
  | e4 => rw [execEgress, hu]; exact ⟨_, rfl, .ite (.ends rfl) (.goesOn (.e5 0#6) rfl hu rfl rfl (by decide))⟩
  | e5 i =>
    rw [execEgress, hu]
    refine ⟨_, rfl, ?_⟩
    obtain ⟨-, e⟩ | ⟨-, e⟩ := egressE5_cases i s <;> rw [e]
    · exact egressCopy_advances hu hegK
    · have hi := i.isLt
      exact .goesOn .e6 rfl hu rfl rfl (by simp only [stepsLeft]; omega)
  | e6 =>
    rw [hu] at hat
    obtain ⟨hconn, -⟩ := hat
    rw [execEgress, hu]
    exact ⟨_, if_pos hconn, .goesOn .e7 rfl hu rfl rfl (by decide)⟩
  | e7 => rw [execEgress, hu]; exact ⟨_, rfl, .ite (.ends rfl) (.goesOn (.e8 0#7) rfl hu rfl rfl (by decide))⟩
  | e8 j => rw [execEgress, hu]; exact ⟨_, rfl, egressE8_advances hu hegAcc⟩
  | _ => simp [StandsAt, hu, inProgressR] at hs

/-- After a byte of INGRESS that the UART took (R161 I3). -/
theorem ingressI3_advances {s : State} {j : BitVec 6} (hu : s.ustep = .i3 j) (hinN : s.scratch.inN.toNat ≤ 64)
    (hready : s.uart.txReady = true) : Advances 4#3 .ingress s (ingressI3 j s) := by
  have hj := j.isLt
  obtain ⟨-, e⟩ | ⟨hbusy, -⟩ := ingressI3_cases j s
  · rw [e]
    by_cases hmore : j.toNat + 1 < s.scratch.inN.toNat
    · have hnext : (j + 1#6).toNat = j.toNat + 1 := by bv_omega
      refine .goesOn _ rfl hu (if_pos hmore) rfl ?_
      simp only [stepsLeft, hnext]
      omega
    · refine .goesOn _ rfl hu (if_neg hmore) rfl ?_
      simp only [stepsLeft]
      omega
  · simp [hready] at hbusy

/-- After INGRESS's read (R161 I2). -/
theorem ingressI2_advances {s : State} (hu : s.ustep = .i2) : Advances 4#3 .ingress s (ingressI2 s) := by
  by_cases hempty : (usbRead s).scratch.inN = 0#7
  · exact .goesOn .i4 rfl hu (if_pos hempty) rfl (by decide)
  · exact .goesOn (.i3 0#6) rfl hu (if_neg hempty) rfl (by decide)

/-- INGRESS, with the host connected where I0 found it so and the UART ready (R161). -/
theorem execIngress_advances {s : State} (hs : StandsAt .ingress s) (hat : AtStep s s.ustep) (hr : Ranges s)
    (hready : s.uart.txReady = true) : ∃ t, execIngress s = .next t ∧ Advances 4#3 .ingress s t := by
  obtain ⟨-, -, -, -, -, hinN, -⟩ := hr
  cases hu : s.ustep with
  | idle => rw [execIngress, hu]; exact ⟨_, rfl, .ite (.goesOn .i1 rfl hu rfl rfl (by decide)) (.ends rfl)⟩
  | i1 => rw [execIngress, hu]; exact ⟨_, rfl, .ite (.goesOn .i2 rfl hu rfl rfl (by decide)) (.ends rfl)⟩
  | i2 =>
    rw [hu] at hat
    obtain ⟨hconn, -⟩ := hat
    rw [execIngress, hu]
    exact ⟨_, if_pos hconn, ingressI2_advances hu⟩
  | i3 j => rw [execIngress, hu]; exact ⟨_, rfl, ingressI3_advances hu hinN hready⟩
  | i4 => rw [execIngress, hu]; exact ⟨_, rfl, .ite (.ends rfl) (.ends rfl)⟩
  | _ => simp [StandsAt, hu, inProgressR] at hs

/-- INDIC (R181). -/
theorem execIndic_advances {s : State} (hs : StandsAt .indic s) :
    ∃ t, execIndic s = .next t ∧ Advances 5#3 .indic s t := by
  cases hu : s.ustep with
  | idle => rw [execIndic, hu]; exact ⟨_, rfl, .goesOn .l1 rfl hu rfl rfl (by decide)⟩
  | l1 => rw [execIndic, hu]; exact ⟨_, rfl, .goesOn .l2 rfl hu rfl rfl (by decide)⟩
  | l2 => rw [execIndic, hu]; exact ⟨_, rfl, .ite (.ends rfl) (.goesOn .l3 rfl hu rfl rfl (by decide))⟩
  | l3 => rw [execIndic, hu]; exact ⟨_, rfl, .goesOn .l4 rfl hu rfl rfl (by decide)⟩
  | l4 => rw [execIndic, hu]; exact ⟨_, rfl, .ends rfl⟩
  | _ => simp [StandsAt, hu, inProgressR] at hs

/-- The operations of the main loop with their numbers (R201). -/
inductive MainLoop : BitVec 3 → Instr → Prop
  | svc : MainLoop 1#3 .svc
  | banner : MainLoop 2#3 .banner
  | egress : MainLoop 3#3 .egress
  | ingress : MainLoop 4#3 .ingress
  | indic : MainLoop 5#3 .indic

/-- The operations of the main loop belong to the R port (R92). -/
theorem MainLoop.wellFormed {k : BitVec 3} {i : Instr} (hi : MainLoop k i) : WellFormed .r i = true := by
  cases hi <;> rfl

/-! ## To the end -/

/-- A good state in which the UART takes a byte. -/
structure ReadyState (s : State) : Prop where
  inv : Inv s
  ready : s.uart.txReady = true

/-- Only the registers of the block and the collaborators' state matter. -/
theorem ReadyState.congr {s t : State} (h : ReadyState s) (e : architectural t = architectural s) : ReadyState t :=
  ⟨h.inv.congr e, (congrArg (·.uart.txReady) e).trans h.ready⟩

/-- A micro-step of the R domain leaves `uart_tx_ready`, which Collaborator A moves (R40, log 32). -/
theorem MicroStepR.txReady_eq {s t : State} {i : Instr} (m : MicroStepR s i t) : t.uart.txReady = s.uart.txReady := by
  cases m with
  | ring _ h | egressE8 _ _ h | egressE8End h => cases h <;> rfl
  | baud _ h | svcS1 _ h => cases h <;> rfl
  | _ => rfl

/-- With the UART ready each operation of the main loop goes on, and leaves the UART ready. -/
theorem MainLoop.exec_advances {k : BitVec 3} {i : Instr} {s : State} (hi : MainLoop k i) (hs : StandsAt i s)
    (h : ReadyState s) : ∃ t, exec i s = .next t ∧ Advances k i s t ∧ ReadyState t := by
  have hexec : ∃ t, exec i s = .next t ∧ Advances k i s t := by
    cases hi with
    | svc => exact execSvc_advances hs
    | banner => exact execBanner_advances hs h.inv.atStep
    | egress => exact execEgress_advances hs h.inv.atStep h.inv.ranges
    | ingress => exact execIngress_advances hs h.inv.atStep h.inv.ranges h.ready
    | indic => exact execIndic_advances hs
  obtain ⟨t, ht, ha⟩ := hexec
  have m := microStepR_of_exec hi.wellFormed hs ht
  exact ⟨t, ht, ha, m.inv h.inv, m.txReady_eq.trans h.ready⟩

/-- In a good state at least one micro-step is left (R151, R161). -/
theorem Inv.stepsLeft_pos {s : State} (h : Inv s) : 0 < stepsLeft s.ustep := by
  have hat := h.atStep
  obtain ⟨-, -, -, -, hegAcc, -⟩ := h.ranges
  cases hu : s.ustep with
  | e5 i =>
    have := i.isLt
    simp only [stepsLeft]
    omega
  | e8 j =>
    rw [hu] at hat
    obtain ⟨hj, -⟩ := hat
    simp only [stepsLeft, CHUNK_eq] at *
    omega
  | i3 j =>
    have := j.isLt
    simp only [stepsLeft]
    omega
  | _ => decide

/-- The R domain goes on with the operation in progress (R201). -/
theorem runToFree_succ_of_exec {s t : State} {i : Instr} {n : Nat} (hs : inProgressR s.ustep = some i)
    (h : exec i (beginStep (decideTurn (.agent .r) s)) = .next t) : runToFree .r (n + 1) s = runToFree .r n t := by
  have hbusy : portFree .r s = false := by
    cases hu : s.ustep <;> simp [portFree, hu, inProgressR] at *
  have hs' : inProgressR (beginStep (decideTurn (.agent .r) s)).ustep = some i := hs
  exact runToFree_succ_of_step hbusy ((step_of_agent_r rfl).trans ((turnR_of_inProgress hs').trans h))

/-- From any of its micro-steps on, an operation of the main loop runs to its end in the micro-steps that are left. -/
theorem MainLoop.runToFree_of_advances {k : BitVec 3} {i : Instr} (hi : MainLoop k i) (n : Nat) {x s : State}
    (ha : Advances k i x s) (hs : ReadyState s) (hn : stepsLeft x.ustep ≤ n + 1) :
    ∃ t, runToFree .r n s = .next t ∧ ReadyState t ∧ t.ustep = .idle ∧
      (x.schedStep = k → t.schedStep = nextSchedStep k) := by
  induction n generalizing x s with
  | zero =>
    cases ha with
    | ends hk => exact ⟨_, rfl, hs, rfl, fun hx => by simp [hk.trans hx]⟩
    | goesOn v hk hu hv _ hless =>
      have hpos := hs.inv.stepsLeft_pos
      rw [hu] at hn
      rw [hv] at hpos
      omega
  | succ n ih =>
    cases ha with
    | ends hk => exact ⟨_, runToFree_of_portFree (portFree_r_iff.2 rfl) _, hs, rfl, fun hx => by simp [hk.trans hx]⟩
    | goesOn v hk hu hv hi' hless =>
      rw [← hv] at hi' hless
      rw [hu] at hn
      obtain ⟨t, ht, hat, hready⟩ :=
        hi.exec_advances (s := beginStep (decideTurn (.agent .r) s)) (.inr hi') (hs.congr rfl)
      have hn' : stepsLeft s.ustep ≤ n + 1 := by omega
      obtain ⟨v, hrun, hv, hidle, hsched⟩ := ih hat hready hn'
      exact ⟨v, (runToFree_succ_of_exec hi' ht).trans hrun, hv, hidle, fun hx => hsched (hk.trans hx)⟩

/-- An operation of the main loop that a harness presents runs to its end, and `sched_step` moves on if it held the
operation's number (R99, R201). -/
theorem MainLoop.harnessWord {k : BitVec 3} {i : Instr} (hi : MainLoop k i) {s : State} (h : ReadyState s)
    (hu : s.ustep = .idle) :
    ∃ t, harnessWord .r (encode i) s = .next t ∧ ReadyState t ∧ t.ustep = .idle ∧
      (s.schedStep = k → t.schedStep = nextSchedStep k) := by
  have hfree : harnessRefusal .r s = none := by simp [harnessRefusal, hu]
  have hstart := h.congr (architectural_harnessStart .r (encode i) s)
  obtain ⟨t, ht, ha, hready⟩ := hi.exec_advances (s := harnessStart .r (encode i) s) (.inl hu) hstart
  have hn : stepsLeft (harnessStart .r (encode i) s).ustep ≤ longestOp + 1 := by
    have hidle : (harnessStart .r (encode i) s).ustep = .idle := hu
    rw [hidle]
    decide
  obtain ⟨v, hrun, hv⟩ := hi.runToFree_of_advances longestOp ha hready hn
  exact ⟨v, (harnessWord_of_exec hi.wellFormed hfree ht).trans hrun, hv⟩

/-- A harness's ITER runs its five operations to their ends, and is one iteration of the main loop (R102, R201). -/
theorem harnessWords_iter {s : State} (h : ReadyState s) (hu : s.ustep = .idle) :
    ∃ t, harnessWords .r (([.svc, .banner, .egress, .ingress, .indic] : List Instr).map encode) s = .next t ∧
      t.ustep = .idle ∧ (s.schedStep = 1#3 → t.schedStep = 1#3) := by
  obtain ⟨s1, h1, hr1, hu1, hk1⟩ := MainLoop.svc.harnessWord h hu
  obtain ⟨s2, h2, hr2, hu2, hk2⟩ := MainLoop.banner.harnessWord hr1 hu1
  obtain ⟨s3, h3, hr3, hu3, hk3⟩ := MainLoop.egress.harnessWord hr2 hu2
  obtain ⟨s4, h4, hr4, hu4, hk4⟩ := MainLoop.ingress.harnessWord hr3 hu3
  obtain ⟨s5, h5, -, hu5, hk5⟩ := MainLoop.indic.harnessWord hr4 hu4
  refine ⟨s5, ?_, hu5, fun hk => hk5 (hk4 (hk3 (hk2 (hk1 hk))))⟩
  simp only [List.map_cons, List.map_nil, harnessWords, h1, h2, h3, h4, h5]

/-! ## The pseudo-operations (R102) -/

/-- The word of PUT, as its bits (R94). -/
theorem encode_put (b : Byte) : encode (.put b) = 0x1000#16 ||| b.zeroExtend 16 :=
  (by decide : ∀ b : Byte, encode (.put b) = 0x1000#16 ||| b.zeroExtend 16) b

/-- Settles O9: the expansions are computed, and each pseudo-operation is its words one after the other. -/
theorem pseudoOperationsExpand : Obligations.PseudoOperationsExpand := by
  refine ⟨⟨fun n k => List.map_replicate, fun k => rfl, fun k => List.map_replicate, fun bs k => ?puts⟩,
    fun s n hu => ?commit, fun s hw hisr hirq => ⟨?isr, fun bs => ?runPuts⟩,
    fun s hinv hu hready => harnessWords_iter ⟨hinv, hready⟩ hu⟩
  case puts =>
    simp only [Pseudo.expand, List.map_map]
    exact List.map_congr_left fun b _ => encode_put b
  case commit =>
    have hwords : ((Pseudo.commit n).expand 0).map encode = List.replicate n (encode .adv) := List.map_replicate
    rw [runPseudo, hwords]
    exact harnessWords_advs n hu
  case isr =>
    obtain ⟨t, ht, hnil, hcons, e⟩ := harnessIsr_architectural s.uart.rx ⟨hisr, hirq, hw⟩ rfl
    obtain ⟨u, hexec, e'⟩ := execAll_puts_architectural s.uart.rx s
    refine ⟨t, u, ht, hexec, ?_, ?_, ?_, hnil, hcons⟩
    · rw [e, e']
    · exact (congrArg (·.wstep) e).trans hw
    · exact (congrArg (·.ring.tail) e).trans (Ring.foldl_put_tail _ _)
  case runPuts =>
    obtain ⟨t, ht, e⟩ := harnessWords_puts bs ⟨hisr, hirq, hw⟩
    obtain ⟨u, hexec, e'⟩ := execAll_puts_architectural bs s
    exact ⟨t, u, ht, hexec, e.trans e'.symm⟩

end Sys2Proof.Machine
end

section
/-! PROOFS. The ring buffer's primitives, each by its cases (R110 to R117): the state it leaves with the word it answers,
as full equalities. -/

namespace Sys2Proof.Machine

/-! ## Answers as words (R98) -/

/-- A plain response on the W port. -/
theorem respondW_plain (ok : Bool) (s : State) :
    respondW s (plainResponse ok) = answeredW s (if ok then 0x4000#16 else 0x0000#16) := by
  rw [respondW, responseWord_plain, answeredW]

/-- A plain response on the R port. -/
theorem respondR_plain (ok : Bool) (s : State) :
    respondR s (plainResponse ok) = answeredR s (if ok then 0x4000#16 else 0x0000#16) := by
  rw [respondR, responseWord_plain, answeredR]

/-- A byte answered on the R port. -/
theorem respondR_byte (b : Byte) (s : State) :
    respondR s (byteResponse b) = answeredR s (0x6000#16 ||| b.zeroExtend 16) := by
  rw [respondR, responseWord_byte, answeredR]

/-- A byte's answer has `valid` set (R98). -/
theorem byteAnswer_valid (b : Byte) : (0x6000#16 ||| b.zeroExtend 16).getLsbD 13 = true := by
  rw [← responseWord_byte, responseWord_bit_valid, byteResponse]

/-- A count's response as a word: `ok` above the count (R98, R116). -/
theorem responseWord_count (n : Index) : responseWord (countResponse n) = 0x4000#16 ||| n.zeroExtend 16 := by
  have hn : n.toNat % 65536 = n.toNat := Nat.mod_eq_of_lt (n.isLt.trans (by decide))
  have happ : (4#4 ++ n).toNat = 0x4000 ||| n.toNat := BitVec.toNat_append 4#4 n
  refine BitVec.eq_of_toNat_eq ?_
  simp [responseWord, countResponse, happ, Config.CW, hn]

/-! ## NOP (R110) -/

/-- NOP sees one port's valid line up and answers there only (R110, log 26). -/
theorem nopOp_present (p : Port) (w : Word) (s : State) :
    nopOp (present p (beginStep s) w) = answered p (present p (beginStep s) w) 0x4000#16 := by
  cases p with
  | w => rfl
  | r => rfl

/-- Settles O20: the word is on one port, and NOP answers there. -/
theorem nopOnlyAnswers : Obligations.NopOnlyAnswers := fun s p =>
  congrArg Host.Outcome.next (nopOp_present p 0x0000#16 s)

/-! ## PUT (R111) -/

/-- A buffer that looks full makes PUT drop its byte (R111, R112). -/
theorem exec_put_of_full {s : State} (hfull : s.ring.head + 1#12 = s.ring.tailW) (b : Byte) :
    exec (.put b) s = .next (answeredW s 0x0000#16) := by
  obtain ⟨-, e⟩ | ⟨room, -⟩ := putOp_cases b s
  · rw [exec, execPut, e, respondW_plain]
    rfl
  · exact absurd hfull room

/-- A buffer with room takes PUT's byte (R111). -/
theorem exec_put_of_room {s : State} (room : s.ring.head + 1#12 ≠ s.ring.tailW) (b : Byte) :
    exec (.put b) s = .next (answeredW { s with ring := s.ring.stored b } 0x4000#16) := by
  obtain ⟨hfull, -⟩ | ⟨-, e⟩ := putOp_cases b s
  · exact absurd hfull room
  · rw [exec, execPut, e, respondW_plain]
    rfl

/-- After a store at `head` that cell reads as the byte stored, and every other cell as before (R111). -/
theorem memRead_of_stored {s t : State} {b : Byte} (hring : t.ring = s.ring.stored b) :
    memRead t s.ring.head = b ∧ ∀ a, a ≠ s.ring.head → memRead t a = memRead s a := by
  have hread (a : Index) : memRead t a = memRead (memWrite s s.ring.head b) a := memRead_congr (by rw [hring]; rfl) a
  exact ⟨(hread _).trans (memRead_memWrite_same s _ b), fun a ha => (hread a).trans (memRead_memWrite_other s b ha)⟩

/-- Settles O21: PUT's two cases, and what a store makes of the cells. -/
theorem putStoresUnlessFull : Obligations.PutStoresUnlessFull := fun b _ =>
  ⟨fun hfull => exec_put_of_full hfull b, fun room => ⟨_, exec_put_of_room room b, rfl, memRead_of_stored rfl⟩⟩

/-! ## GET (R113) -/

/-- GET on a buffer that looks empty answers no byte and changes nothing (R113). -/
theorem exec_get_of_empty {s : State} (hempty : s.ring.headR = s.ring.tail) :
    exec .get s = .next (answeredR s 0x4000#16) := by
  obtain ⟨-, e⟩ | ⟨avail, -⟩ := getOp_cases s
  · rw [exec, execGet, e, respondR_plain]
    rfl
  · exact absurd hempty avail

/-- GET with a byte visible answers the byte at `tail` and releases it (R113). -/
theorem exec_get_of_avail {s : State} (avail : s.ring.headR ≠ s.ring.tail) :
    exec .get s = .next (answeredR { s with ring := s.ring.released }
      (0x6000#16 ||| (memRead s s.ring.tail).zeroExtend 16)) := by
  obtain ⟨hempty, -⟩ | ⟨-, e⟩ := getOp_cases s
  · exact absurd hempty avail
  · rw [exec, execGet, e, respondR_byte]

/-- Settles O22: GET's two cases. -/
theorem getReturnsTheOldestByte : Obligations.GetReturnsTheOldestByte := fun _ =>
  ⟨exec_get_of_empty, exec_get_of_avail⟩

/-! ## PEEK (R114) -/

/-- PEEK below the visible count answers the byte at that offset from `tail` (R114). -/
theorem exec_peek_of_lt {s : State} {i : BitVec 6} (h : i.toNat < (s.ring.headR - s.ring.tail).toNat) :
    exec (.peek i) s = .next (answeredR s
      (0x6000#16 ||| (memRead s (s.ring.tail + i.zeroExtend 12)).zeroExtend 16)) := by
  obtain ⟨-, e⟩ | ⟨hnone, -⟩ := peekOp_cases i s
  · rw [exec, execPeek, e, respondR_byte]
  · exact absurd h hnone.not_gt

/-- PEEK past the visible bytes answers no byte (R114). -/
theorem exec_peek_of_le {s : State} {i : BitVec 6} (h : (s.ring.headR - s.ring.tail).toNat ≤ i.toNat) :
    exec (.peek i) s = .next (answeredR s 0x4000#16) := by
  obtain ⟨hlt, -⟩ | ⟨-, e⟩ := peekOp_cases i s
  · exact absurd hlt h.not_gt
  · rw [exec, execPeek, e, respondR_plain]
    rfl

/-- Settles O23: PEEK's two cases. -/
theorem peekReadsWithoutReleasing : Obligations.PeekReadsWithoutReleasing := fun _ _ =>
  ⟨exec_peek_of_lt, exec_peek_of_le⟩

/-! ## ADV (R115) -/

/-- ADV on a buffer that looks empty answers `ok = 0` and changes nothing (R115). -/
theorem exec_adv_of_empty {s : State} (hempty : s.ring.headR = s.ring.tail) :
    exec .adv s = .next (answeredR s 0x0000#16) := by
  obtain ⟨-, e⟩ | ⟨avail, -⟩ := advOp_cases s
  · rw [exec, execAdv, e, respondR_plain]
    rfl
  · exact absurd hempty avail

/-- ADV with a byte visible releases it (R115). -/
theorem exec_adv_of_avail {s : State} (avail : s.ring.headR ≠ s.ring.tail) :
    exec .adv s = .next (answeredR { s with ring := s.ring.released } 0x4000#16) := by
  obtain ⟨hempty, -⟩ | ⟨-, e⟩ := advOp_cases s
  · exact absurd hempty avail
  · rw [exec, execAdv, e, respondR_plain]
    rfl

/-- Settles O24: ADV's two cases. -/
theorem advReleasesOneByte : Obligations.AdvReleasesOneByte := fun _ =>
  ⟨exec_adv_of_empty, exec_adv_of_avail⟩

/-! ## AVAIL (R116) -/

/-- AVAIL answers the visible count (R116). -/
theorem exec_avail_eq (s : State) :
    exec .avail s = .next (answeredR s (0x4000#16 ||| (s.ring.headR - s.ring.tail).zeroExtend 16)) := by
  rw [exec, execAvail, availOp, respondR, responseWord_count]
  rfl

/-- The difference of two indices, as the number the spec writes (R116, R118). -/
theorem sub_toNat_eq_mod (a b : BitVec 12) : (a - b).toNat = (a.toNat + 4096 - b.toNat) % 4096 := by
  bv_omega

/-- Settles O25: the count is the difference of `head_r` and `tail`. -/
theorem availCountsVisibleBytes : Obligations.AvailCountsVisibleBytes := fun s =>
  ⟨s.ring.headR - s.ring.tail, sub_toNat_eq_mod _ _, exec_avail_eq s⟩

/-! ## GET as PEEK 0 and ADV (R117) -/

/-- PEEK 0 reads the cell at `tail` (R114). -/
theorem exec_peek_zero_of_avail {s : State} (avail : s.ring.headR ≠ s.ring.tail) :
    exec (.peek 0#6) s = .next (answeredR s (0x6000#16 ||| (memRead s s.ring.tail).zeroExtend 16)) := by
  have hpos : (0#6).toNat < (s.ring.headR - s.ring.tail).toNat :=
    Nat.pos_of_ne_zero (mt (sub_toNat_eq_zero_iff _ _).1 avail)
  have hcell : s.ring.tail + (0#6).zeroExtend 12 = s.ring.tail := BitVec.add_zero _
  rw [exec_peek_of_lt hpos, hcell]

/-- Settles O26: on an empty buffer GET and PEEK 0 answer 0x4000 and ADV refuses; otherwise GET and PEEK 0 answer the byte
at `tail`, with `valid`, and GET and ADV release it. -/
theorem getIsPeekThenAdv : Obligations.GetIsPeekThenAdv := by
  intro s
  by_cases h : s.ring.headR = s.ring.tail
  · have hzero : (s.ring.headR - s.ring.tail).toNat ≤ (0#6).toNat := ((sub_toNat_eq_zero_iff _ _).2 h).le
    refine ⟨_, _, _, exec_get_of_empty h, exec_peek_of_le hzero, exec_adv_of_empty h, rfl, rfl, ?_⟩
    show (0x4000#16).getLsbD 13 = (0x0000#16).getLsbD 14
    decide
  · refine ⟨_, _, _, exec_get_of_avail h, exec_peek_zero_of_avail h, exec_adv_of_avail h, rfl, rfl, ?_⟩
    show (0x6000#16 ||| _).getLsbD 13 = (0x4000#16).getLsbD 14
    rw [byteAnswer_valid]
    decide

end Sys2Proof.Machine
end

section
/-! PROOFS. RXBYTE as a whole with no other agent between its micro-steps (R141). -/

namespace Sys2Proof.Machine

/-! ## A run of one operation alone -/

/-- A micro-step that does not end the operation: the run goes on. -/
theorem runAlone_succ_of_busy {i : Instr} {s t : State} (n : Nat) (h : exec i s = .next t)
    (hbusy : opDone i t = false) : runAlone i (n + 1) s = runAlone i n t := by
  simp only [runAlone, h, hbusy, Bool.false_eq_true, if_false]

/-- The micro-step that ends the operation ends the run. -/
theorem runAlone_succ_of_done {i : Instr} {s t : State} (n : Nat) (h : exec i s = .next t)
    (hdone : opDone i t = true) : runAlone i (n + 1) s = .next t := by
  simp only [runAlone, h, hdone, if_true]

/-! ## RXBYTE (R141) -/

/-- The state at the end of RXBYTE from `s`, the byte `b` taken off a FIFO that holds `rest` behind it: X1 pops, X2 puts,
X3 stamps. -/
def rxbyteEnd (b : Byte) (rest : List Byte) (s : State) : State :=
  rxbyteX3 (rxbyteX2 { uartPop s b rest with wstep := .x2 })

/-- RXBYTE alone, with a byte waiting, ends with its fourth micro-step. -/
theorem runAlone_rxbyte {s : State} {b : Byte} {rest : List Byte} (hw : s.wstep = .idle)
    (hrx : s.uart.rx = b :: rest) : runAlone .rxbyte 4 s = .next (rxbyteEnd b rest s) := by
  have hx0 : exec .rxbyte s = .next { s with wstep := .x1 } :=
    execRxbyte_idle hw (hrx.trans_ne (List.cons_ne_nil b rest))
  have hx1 : exec .rxbyte { s with wstep := .x1 } = .next { uartPop s b rest with wstep := .x2 } := by
    simp only [exec, execRxbyte, hrx, uartPop]
  have hx2 : exec .rxbyte { uartPop s b rest with wstep := .x2 } =
      .next (rxbyteX2 { uartPop s b rest with wstep := .x2 }) := rfl
  have hx3 : exec .rxbyte (rxbyteX2 { uartPop s b rest with wstep := .x2 }) = .next (rxbyteEnd b rest s) := rfl
  rw [runAlone_succ_of_busy 3 hx0 rfl, runAlone_succ_of_busy 2 hx1 rfl, runAlone_succ_of_busy 1 hx2 rfl,
    runAlone_succ_of_done 0 hx3 rfl]

/-- What RXBYTE leaves: the ring after PUT of the byte, the FIFO without it, the byte in `rxd` and the clock stamped; the
strobes and port words are those of its inner words. -/
theorem rxbyteEnd_eq (b : Byte) (rest : List Byte) (s : State) :
    rxbyteEnd b rest s = { s with
      wstep := .idle
      ring := s.ring.put b
      uart := { s.uart with rx := rest }
      scratch := { s.scratch with rxd := b }
      lastActivity := s.nowMs
      strobes := (rxbyteEnd b rest s).strobes
      ports := (rxbyteEnd b rest s).ports } := by
  rw [rxbyteEnd, rxbyteX2, putOp_state]
  rfl

/-- Settles O31: RXBYTE leaves the ring as PUT of the byte leaves it, and PUT's two cases say how. -/
theorem rxbyteMovesOneByte : Obligations.RxbyteMovesOneByte := by
  intro s b rest hw hrx
  have hend := rxbyteEnd_eq b rest s
  have hring : (rxbyteEnd b rest s).ring = s.ring.put b := congrArg (·.ring) hend
  refine ⟨_, runAlone_rxbyte hw hrx, ?frame, responseWord_plain true, fun hfull => ?full, fun room => ?stored⟩
  case frame =>
    rw [← hw, ← hring] at hend
    exact hend
  case full => rw [hring, Ring.put, if_pos hfull]
  case stored =>
    rw [Ring.put, if_neg room] at hring
    exact ⟨by rw [hring], memRead_of_stored hring⟩

end Sys2Proof.Machine
end

section
/-! PROOFS. The Activity Clock (R131, R132): what the two touches make of the state, and which operations stamp it. -/

namespace Sys2Proof.Machine

/-- Settles O28: a touch is one update of the clock, and its answer is a plain one. -/
theorem touchesStampTheTime : Obligations.TouchesStampTheTime := fun s =>
  ⟨congrArg Host.Outcome.next (respondW_plain true (touch s)),
    congrArg Host.Outcome.next (respondR_plain true (touch s))⟩

/-! ## The writers of the Activity Clock (R132) -/

/-- What operation `i` makes of the Activity Clock in one atomic step from `s`: nothing, or a stamp by TOUCHW, TOUCHR,
RXBYTE's X3 or INGRESS's I4 after a non-empty transfer (R131, R132, R141, R161). -/
inductive ClockExec (s t : State) (i : Instr) : Prop
  | stays (hclock : t.lastActivity = s.lastActivity)
  | stamps (who : i = .touchw ∨ i = .touchr ∨ (i = .rxbyte ∧ s.wstep = .x3) ∨
      (i = .ingress ∧ s.ustep = .i4 ∧ s.scratch.inN ≠ 0#7))
    (hclock : t.lastActivity = s.nowMs)

/-- RXBYTE stamps the clock at X3 only (R141). -/
theorem clockExec_of_execRxbyte {s t : State} (h : execRxbyte s = .next t) : ClockExec s t .rxbyte := by
  unfold execRxbyte at h
  split at h
  next => cases h; unfold rxbyteX0; split <;> exact .stays rfl
  next => split at h <;> cases h; exact .stays rfl
  next => cases h; exact .stays (congrArg (·.lastActivity) (putOp_state _ _))
  next hw => cases h; exact .stamps (.inr (.inr (.inl ⟨rfl, hw⟩))) rfl

/-- INGRESS stamps the clock at I4 only, and only after a non-empty transfer (R161). -/
theorem clockExec_of_execIngress {s t : State} (h : execIngress s = .next t) : ClockExec s t .ingress := by
  unfold execIngress at h
  split at h
  next => cases h; unfold ingressI0; split <;> exact .stays rfl
  next => cases h; unfold ingressI1; split <;> exact .stays rfl
  next => split at h <;> cases h; exact .stays rfl
  next => cases h; unfold ingressI3; split <;> exact .stays rfl
  next hu =>
    cases h
    unfold ingressI4
    split
    next => exact .stays rfl
    next hn => exact .stamps (.inr (.inr (.inr ⟨rfl, hu, hn⟩))) rfl
  next => cases h

/-- A micro-step of the R domain besides TOUCHR's and INGRESS's leaves the clock: EGRESS, BANNER, BAUD and BOOT do not
touch (R132). -/
theorem MicroStepR.lastActivity_eq {s t : State} {i : Instr} (m : MicroStepR s i t) (htouchr : i ≠ .touchr)
    (hingress : i ≠ .ingress) : t.lastActivity = s.lastActivity := by
  cases m with
  | ring _ h | egressE8 _ _ h | egressE8End h => cases h <;> rfl
  | baud _ h | svcS1 _ h => cases h <;> rfl
  | touch => exact absurd rfl htouchr
  | ingressI4 => exact absurd rfl hingress
  | _ => rfl

/-- An operation of the W port moves the clock as `ClockExec` says. -/
theorem clockExec_of_exec_w {i : Instr} {s t : State} (hi : WellFormed .w i = true) (h : exec i s = .next t) :
    ClockExec s t i := by
  cases i with
  | nop => cases h; exact .stays rfl
  | put b => cases h; exact .stays (congrArg (·.lastActivity) (putOp_state b s))
  | touchw => cases h; exact .stamps (.inl rfl) rfl
  | rxbyte => exact clockExec_of_execRxbyte h
  | _ => cases hi

/-- An operation of the R port, presented between two operations or continued, moves the clock as `ClockExec` says. -/
theorem clockExec_of_exec_r {i : Instr} {s t : State} (hi : WellFormed .r i = true)
    (hu : s.ustep = .idle ∨ inProgressR s.ustep = some i) (h : exec i s = .next t) : ClockExec s t i := by
  cases i with
  | touchr => cases h; exact .stamps (.inr (.inl rfl)) rfl
  | ingress => exact clockExec_of_execIngress h
  | _ => exact .stays ((microStepR_of_exec hi hu h).lastActivity_eq nofun nofun)

/-- The operation of a step moves the clock as `ClockExec` says. -/
theorem RunsFrom.clockExec {s t x : State} {p : Port} {i : Instr} (hr : RunsFrom s p i x) (h : exec i x = .next t) :
    ClockExec x t i := by
  cases p with
  | w => exact clockExec_of_exec_w hr.legal h
  | r => exact clockExec_of_exec_r hr.legal (hr.position rfl) h

/-- A step outside the two domains leaves the clock. -/
theorem OutsideStep.lastActivity_eq {s t : State} (h : OutsideStep s t) : t.lastActivity = s.lastActivity := by
  cases h <;> rfl

/-- Settles O29: the clock moves with a stamping operation only, which a harness presents or a sequencer has in
progress. -/
theorem activityClockHasOnlyItsWriters : Obligations.ActivityClockHasOnlyItsWriters := by
  intro s t h hne
  obtain o | ⟨p, i, x, hruns, hexec⟩ := runs_of_step h
  · exact absurd o.lastActivity_eq hne
  have hclock : x.lastActivity = s.lastActivity := congrArg (·.lastActivity) hruns.registers
  have hnow : x.nowMs = s.nowMs := congrArg (·.nowMs) hruns.registers
  have hw : x.wstep = s.wstep := congrArg (·.wstep) hruns.registers
  have hu : x.ustep = s.ustep := congrArg (·.ustep) hruns.registers
  have hn : x.scratch.inN = s.scratch.inN := congrArg (·.scratch.inN) hruns.registers
  cases hruns.clockExec hexec with
  | stays e => exact absurd (e.trans hclock) hne
  | stamps who e =>
    refine ⟨e.trans hnow, ?_⟩
    rw [hw, hu, hn] at who
    obtain rfl | rfl | ⟨rfl, hx3⟩ | ⟨rfl, hi4, hsome⟩ := who
    · obtain rfl := hruns.port_eq_w rfl
      exact .inr (.inr (.inl (hruns.harness_of_primitive rfl nofun)))
    · obtain rfl := hruns.port_eq_r rfl
      exact .inr (.inr (.inr (hruns.harness_of_primitive rfl nofun)))
    · obtain rfl := hruns.port_eq_w rfl
      exact .inl ⟨hruns.agent_of_busy (by simp [portFree, hx3]), hx3⟩
    · obtain rfl := hruns.port_eq_r rfl
      exact .inr (.inl ⟨hruns.agent_of_busy (by simp [portFree, hi4]), hi4, hsome⟩)

end Sys2Proof.Machine
end

section
/-! PROOFS. INGRESS as a whole with no other agent between its micro-steps (R161, R163). -/

namespace Sys2Proof.Machine

/-! ## From I0 to the write -/

/-- The state in which INGRESS's write begins: the oldest host bytes are in `in_buf` and the first is to be written. -/
def ingressLoaded (s : State) : State := { usbRead s with ustep := .i3 0#6 }

/-- I0 to I2 with the host connected and bytes waiting lead to the write (R161). -/
theorem runAlone_ingress_load (n : Nat) {s : State} (hu : s.ustep = .idle) (hconn : s.usb.connected = true)
    (hrx : s.usb.rx ≠ []) : runAlone .ingress (n + 3) s = runAlone .ingress n (ingressLoaded s) := by
  have hi0 : exec .ingress s = .next { s with ustep := .i1 } := by simp [exec, execIngress, hu, ingressI0, hconn]
  have hi1 : exec .ingress { s with ustep := .i1 } = .next { s with ustep := .i2 } := by
    simp [exec, execIngress, ingressI1, usbRdAvail, hrx]
  have hi2 : exec .ingress { s with ustep := .i2 } = .next (ingressLoaded s) :=
    (if_pos hconn).trans (congrArg _ (ingressI2_of_ne_nil hrx))
  rw [runAlone_succ_of_busy (n + 2) hi0 rfl, runAlone_succ_of_busy (n + 1) hi1 rfl, runAlone_succ_of_busy n hi2 rfl]

/-! ## The write (I3) -/

/-- The last `k` bytes of INGRESS's write, which sends the first `in_n` bytes of `in_buf` (R161). -/
def bytesLeft (k : Nat) (s : State) : List Byte :=
  (s.scratch.inBuf.take s.scratch.inN.toNat).drop (s.scratch.inN.toNat - k)

/-- The state at the end of INGRESS's write from `s`, the UART having taken the bytes `bs`. -/
def ingressWritten (bs : List Byte) (strobes : Strobes) (s : State) : State :=
  { s with ustep := .i4, uart := { s.uart with tx := s.uart.tx ++ bs }, strobes := strobes }

/-- A write with no byte left is at its end. -/
theorem ingressWritten_bytesLeft_zero {s : State} (hu : s.ustep = .i4) :
    ingressWritten (bytesLeft 0 s) s.strobes s = s := by
  have hnone : bytesLeft 0 s = [] := List.drop_eq_nil_of_le (List.length_take_le _ _)
  rw [hnone, ingressWritten, List.append_nil, ← hu]

/-- The byte at index `j` is the next where `k + 1` are left (R161 I3). -/
theorem bytesLeft_succ {s : State} {j : BitVec 6} {k : Nat} (hleft : j.toNat + (k + 1) = s.scratch.inN.toNat)
    (hbuf : s.scratch.inN.toNat ≤ s.scratch.inBuf.length) :
    bytesLeft (k + 1) s = ingressByte s j :: bytesLeft k s := by
  have hj : s.scratch.inN.toNat - (k + 1) = j.toNat := by omega
  have hnext : s.scratch.inN.toNat - k = j.toNat + 1 := by omega
  have hbyte : ingressByte s j = s.scratch.inBuf[j.toNat] := List.getD_eq_getElem _ _ (by omega)
  rw [bytesLeft, bytesLeft, hj, hnext, hbyte, List.drop_eq_getElem_cons (by rw [List.length_take]; omega),
    List.getElem_take]

/-- A byte that the UART takes at I3, and the rest of the write behind it (R161, R242). -/
theorem ingressWritten_ingressI3 {s : State} (hready : s.uart.txReady = true) (j : BitVec 6) (bs : List Byte)
    (strobes : Strobes) :
    ingressWritten bs strobes (ingressI3 j s) = ingressWritten (ingressByte s j :: bs) strobes s := by
  rw [ingressI3, if_pos (show uartTxReady s = true from hready), ingressWritten, ingressWritten,
    List.append_cons s.uart.tx]
  rfl

/-- I3 leaves `in_buf`, `in_n` and the UART's readiness. -/
theorem ingressI3_keeps (j : BitVec 6) (s : State) :
    (ingressI3 j s).scratch = s.scratch ∧ (ingressI3 j s).uart.txReady = s.uart.txReady := by
  unfold ingressI3
  split <;> exact ⟨rfl, rfl⟩

/-- A write begun stands at I3 or I4, inside INGRESS. -/
theorem WriteLeft.opDone_ingress {s : State} {k : Nat} (h : WriteLeft s k) : opDone .ingress s = false := by
  cases k with
  | zero => exact decide_eq_false (h.trans_ne nofun)
  | succ k =>
    obtain ⟨j, hu, -⟩ := h
    exact decide_eq_false (hu.trans_ne nofun)

/-- INGRESS's write with the UART ready sends the `k` bytes that are left, one per micro-step (R161, R242). -/
theorem runAlone_ingress_write (n k : Nat) {s : State} (hleft : WriteLeft s k) (hready : s.uart.txReady = true)
    (hbuf : s.scratch.inN.toNat ≤ s.scratch.inBuf.length) :
    ∃ strobes, runAlone .ingress (n + k) s = runAlone .ingress n (ingressWritten (bytesLeft k s) strobes s) := by
  induction k generalizing s with
  | zero => exact ⟨s.strobes, by rw [ingressWritten_bytesLeft_zero hleft, Nat.add_zero]⟩
  | succ k ih =>
    obtain ⟨j, hu, hj, hinN⟩ := hleft
    have hexec : exec .ingress s = .next (ingressI3 j s) := by rw [exec, execIngress, hu]
    have hnext : WriteLeft (ingressI3 j s) k := writeLeft_ingressI3 hready hj hinN
    obtain ⟨hscratch, hstays⟩ := ingressI3_keeps j s
    obtain ⟨strobes, hrest⟩ := ih hnext (hstays.trans hready) (by rwa [hscratch])
    refine ⟨strobes, ?_⟩
    calc runAlone .ingress (n + k + 1) s
      _ = runAlone .ingress (n + k) (ingressI3 j s) := runAlone_succ_of_busy _ hexec hnext.opDone_ingress
      _ = runAlone .ingress n (ingressWritten (bytesLeft k (ingressI3 j s)) strobes (ingressI3 j s)) := hrest
      _ = runAlone .ingress n (ingressWritten (bytesLeft (k + 1) s) strobes s) := by
        rw [ingressWritten_ingressI3 hready, bytesLeft_succ hj hbuf, bytesLeft, bytesLeft, hscratch]

/-! ## The operation as a whole -/

/-- The number of bytes to write is the number read off the host's queue, at most 64 (R161, R247). -/
theorem ingressLoaded_inN_toNat (s : State) : (ingressLoaded s).scratch.inN.toNat = (s.usb.rx.take 64).length :=
  count_toNat (List.length_take_le 64 s.usb.rx)

/-- The bytes to write are those read off the host's queue (R161, R163). -/
theorem bytesLeft_ingressLoaded (s : State) :
    bytesLeft (s.usb.rx.take 64).length (ingressLoaded s) = s.usb.rx.take 64 := by
  rw [bytesLeft, ingressLoaded_inN_toNat, Nat.sub_self, List.drop_zero]
  exact List.take_left

/-- The write begins with every byte that was read left to write (R161). -/
theorem writeLeft_ingressLoaded {s : State} (hrx : s.usb.rx ≠ []) :
    WriteLeft (ingressLoaded s) (s.usb.rx.take 64).length := by
  have hn := ingressLoaded_inN_toNat s
  have hle : (s.usb.rx.take 64).length ≤ 64 := List.length_take_le 64 s.usb.rx
  cases hlen : (s.usb.rx.take 64).length with
  | zero => simp [hrx] at hlen
  | succ k => exact ⟨0#6, rfl, by rw [hn, hlen]; exact Nat.zero_add _, hn.trans_le hle⟩

/-- I4 after a transfer ends INGRESS with TOUCHR (R161). -/
theorem runAlone_ingress_end (n : Nat) {s : State} (hu : s.ustep = .i4) (hn : s.scratch.inN ≠ 0#7) :
    runAlone .ingress (n + 1) s = .next (finishR 4#3 (touch (presentR s (encode .touchr)))) := by
  have hexec : exec .ingress s = .next (ingressI4 s) := by rw [exec, execIngress, hu]
  rw [ingressI4, if_neg hn] at hexec
  exact runAlone_succ_of_done n hexec rfl

/-- INGRESS alone, with host bytes waiting and the UART ready, takes three micro-steps to load the bytes, one for each
and one to stamp the clock: 68 are enough for 64 bytes (R161, R162). -/
theorem runAlone_ingress {s : State} (hu : s.ustep = .idle) (hconn : s.usb.connected = true) (hrx : s.usb.rx ≠ [])
    (hready : s.uart.txReady = true) :
    ∃ strobes, runAlone .ingress 68 s = .next (finishR 4#3 (touch (presentR
      (ingressWritten (s.usb.rx.take 64) strobes (ingressLoaded s)) (encode .touchr)))) := by
  have hn := ingressLoaded_inN_toNat s
  have hle : (s.usb.rx.take 64).length ≤ 64 := List.length_take_le 64 s.usb.rx
  have hpos : 0 < (s.usb.rx.take 64).length := List.length_pos_of_ne_nil (by simp [hrx])
  have hbuf : (ingressLoaded s).scratch.inN.toNat ≤ (ingressLoaded s).scratch.inBuf.length := by
    rw [hn]
    exact (List.sublist_append_left _ _).length_le
  have hfuel : 65 = 64 - (s.usb.rx.take 64).length + 1 + (s.usb.rx.take 64).length := by omega
  obtain ⟨strobes, hwrite⟩ := runAlone_ingress_write (64 - (s.usb.rx.take 64).length + 1) _
    (writeLeft_ingressLoaded hrx) hready hbuf
  rw [← hfuel, bytesLeft_ingressLoaded] at hwrite
  exact ⟨strobes, (runAlone_ingress_load 65 hu hconn hrx).trans
    (hwrite.trans (runAlone_ingress_end _ rfl (count_pos_iff.1 (hn ▸ hpos))))⟩

/-- Settles O38: the bytes are read off the host's queue, written in order, and the clock is stamped at the end. -/
theorem ingressForwardsHostBytes : Obligations.IngressForwardsHostBytes := by
  intro s hu hconn hrx hready
  obtain ⟨strobes, hrun⟩ := runAlone_ingress hu hconn hrx hready
  refine ⟨_, hrun, ?frame, responseWord_plain true⟩
  rw [finishR, finishStep, ← hu]
  rfl

end Sys2Proof.Machine
end

section
/-! PROOFS. UART ingestion (R141, R224, R226): what RXBYTE's micro-steps make of the state, and where `isr_state` moves. -/

namespace Sys2Proof.Machine

/-! ## The micro-steps of RXBYTE (R141) -/

/-- X0 on an empty FIFO ends RXBYTE with `ok = 0` (R141). -/
theorem exec_rxbyte_of_empty {s : State} (hw : s.wstep = .idle) (hrx : s.uart.rx = []) :
    exec .rxbyte s = .next (answeredW s 0x0000#16) := by
  have hnone : uartRxAvail s = false := by simp [uartRxAvail, hrx]
  simp only [exec, execRxbyte, hw, rxbyteX0, hnone, respondW_plain, Bool.false_eq_true, if_false]

/-- X1 pops the oldest byte into `rxd` (R141). -/
theorem exec_rxbyte_x1 {s : State} {b : Byte} {rest : List Byte} (hw : s.wstep = .x1) (hrx : s.uart.rx = b :: rest) :
    exec .rxbyte s = .next { uartPop s b rest with wstep := .x2 } := by
  simp only [exec, execRxbyte, hw, hrx]

/-- X2 is PUT of `rxd`, its word on the port, whatever PUT answers (R93, R141). -/
theorem exec_rxbyte_x2 {s : State} (hw : s.wstep = .x2) :
    ∃ t, exec (.put s.scratch.rxd) (presentW s (encode (.put s.scratch.rxd))) = .next t ∧
      exec .rxbyte s = .next { t with wstep := .x3 } := by
  refine ⟨_, rfl, ?_⟩
  simp only [exec, execRxbyte, hw, rxbyteX2, presentW_fields]

/-- X3 is TOUCHW, its word on the port, and the end of RXBYTE with `ok = 1` (R93, R141). -/
theorem exec_rxbyte_x3 {s : State} (hw : s.wstep = .x3) :
    exec .rxbyte s = .next { answeredW (touch (presentW s (encode .touchw))) 0x4000#16 with wstep := .idle } := by
  simp only [exec, execRxbyte, hw, rxbyteX3, respondW_plain, if_true]

/-- Settles O30: each position is the line of R141 it is named after, and X0's test selects its branch. -/
theorem rxbyteMicroSteps : Obligations.RxbyteMicroSteps := fun _ =>
  ⟨exec_rxbyte_of_empty, execRxbyte_idle, fun _ _ => exec_rxbyte_x1, exec_rxbyte_x2, exec_rxbyte_x3⟩

/-! ## The handler's entry and return (R142, R224, R226, R227) -/

/-- Where the handler's transition moves `isr_state`, the handler returns on an empty FIFO, or it is entered with its
interrupt enabled and a byte waiting (R222, R224, R226). -/
theorem isrState_of_handlerTransition {s : State} (hne : (handlerTransition s).isrState ≠ s.isrState) :
    (s.isrState = .drain ∧ s.uart.rx = []) ∨ (s.isrState = .idle ∧ s.irqEn = true ∧ s.uart.rx ≠ []) := by
  obtain ⟨hidle, hirq, hrx, -⟩ | ⟨hdrain, hrx, -⟩ | hstays := handlerTransition_cases s
  · exact .inr ⟨hidle, hirq, hrx⟩
  · exact .inl ⟨hdrain, hrx⟩
  · exact absurd (congrArg (·.isrState) hstays) hne

/-- A step of the W domain begins with `isr_state` as it is, unless the sequencer stands between two RXBYTE in its own
turn: there the handler's transition comes first (R99, R142, log 34). -/
theorem StartW.isrState_cases {s x : State} (h : StartW s x) :
    x.isrState = s.isrState ∨
    (nextTurn s = .agent .w ∧ s.wstep = .idle ∧ x.isrState = (handlerTransition (beginStep s)).isrState) := by
  cases h with
  | harness | busy => exact .inl rfl
  | word _ ht hw => exact .inr ⟨ht, hw, rfl⟩

/-- A step leaves `isr_state`, unless it is the W sequencer's between two RXBYTE and makes the handler's transition. -/
theorem isrState_cases_of_step {s t : State} (h : step s = .next t) :
    t.isrState = s.isrState ∨
    (nextTurn s = .agent .w ∧ s.wstep = .idle ∧ t.isrState = (handlerTransition (beginStep s)).isrState) := by
  cases stepCases_of_step h with
  | outside o => exact .inl (congrArg (·.isrState) o.registers_eq.1)
  | w hx m =>
    rw [m.isrState_eq]
    exact hx.isrState_cases
  | r hx m => exact .inl (congrArg (·.isrState) (m.registersW_eq.trans hx.registersW_eq))

/-- Settles O15: only the handler's transition moves `isr_state`, and its cases are the entry and the return. -/
theorem handlerLeavesOnlyAnEmptyFifo : Obligations.HandlerLeavesOnlyAnEmptyFifo := by
  intro s t h hne
  obtain ⟨ht, hw, hisr⟩ := (isrState_cases_of_step h).resolve_left hne
  rw [hisr] at hne
  exact ⟨ht, hw, isrState_of_handlerTransition (s := beginStep s) hne⟩

end Sys2Proof.Machine
end

section
/-! PROOFS. No agent stops the loop (R206, R220): in a good state each micro-step of each domain answers a next state,
since the tests and samples made before it still hold where it relies on them. -/

namespace Sys2Proof.Machine

/-! ## The W domain (R141, R222) -/

/-- RXBYTE goes on from any of its positions: the byte that X0 saw is still there for X1 (R141). -/
theorem execRxbyte_next {s : State} (hat : AtWStep s s.wstep) : ∃ t, execRxbyte s = .next t := by
  cases hw : s.wstep with
  | x1 =>
    rw [hw] at hat
    obtain ⟨b, rest, hrx⟩ := List.exists_cons_of_ne_nil hat
    exact ⟨_, exec_rxbyte_x1 hw hrx⟩
  | idle | x2 | x3 => rw [execRxbyte, hw]; exact ⟨_, rfl⟩

/-- Every operation of the W port answers a next state (R92, R220). -/
theorem exec_next_w {i : Instr} {s : State} (hi : WellFormed .w i = true) (hat : AtWStep s s.wstep) :
    ∃ t, exec i s = .next t := by
  cases i with
  | nop | put | touchw => exact ⟨_, rfl⟩
  | rxbyte => exact execRxbyte_next hat
  | _ => cases hi

/-- The W sequencer's turn answers a next state (R142, R224, R226). -/
theorem turnW_next {s : State} (h : Inv s) : ∃ t, turnW s = .next t := by
  by_cases hw : s.wstep = .idle
  · obtain ⟨i, hd⟩ := decode_wordW s
    have hat : AtWStep (presentW (handlerTransition s) (wordW s)) (handlerTransition s).wstep :=
      h.handlerTransition.atWStep
    obtain ⟨t, ht⟩ := exec_next_w (wellFormed_of_decode hd) hat
    simp only [turnW, hw]
    exact ⟨t, (runWord_legal hd _).trans ht⟩
  · rw [turnW_of_busy hw]
    exact execRxbyte_next h.atWStep

/-! ## The R domain (R201, R206) -/

/-- INGRESS goes on with the host connected where I0 found it so, whether or not the UART takes a byte (R161, R242). -/
theorem execIngress_next {s : State} (hs : StandsAt .ingress s) (hat : AtStep s s.ustep) :
    ∃ t, execIngress s = .next t := by
  cases hu : s.ustep with
  | i2 =>
    rw [hu] at hat
    obtain ⟨hconn, -⟩ := hat
    rw [execIngress, hu]
    exact ⟨_, if_pos hconn⟩
  | idle | i1 | i3 | i4 => rw [execIngress, hu]; exact ⟨_, rfl⟩
  | _ => simp [StandsAt, hu, inProgressR] at hs

/-- BOOT goes on, and begins where none has finished (R205). -/
theorem execBoot_next {s : State} (hs : StandsAt .boot s) (hfirst : s.ustep = .idle → s.schedStep = 0#3) :
    ∃ t, execBoot s = .next t := by
  cases hu : s.ustep with
  | idle => rw [execBoot, hu]; exact ⟨_, if_pos (hfirst hu)⟩
  | t1 | t2 => rw [execBoot, hu]; exact ⟨_, rfl⟩
  | _ => simp [StandsAt, hu, inProgressR] at hs

/-- Every operation of the main loop goes on in a good state (R201, R206). -/
theorem MainLoop.exec_next {k : BitVec 3} {i : Instr} {s : State} (hi : MainLoop k i) (hs : StandsAt i s)
    (h : Inv s) : ∃ t, exec i s = .next t := by
  cases hi with
  | svc => exact (execSvc_advances hs).imp fun _ => And.left
  | banner => exact (execBanner_advances hs h.atStep).imp fun _ => And.left
  | egress => exact (execEgress_advances hs h.atStep h.ranges).imp fun _ => And.left
  | ingress => exact execIngress_next hs h.atStep
  | indic => exact (execIndic_advances hs).imp fun _ => And.left

/-- An operation in progress in the R domain is BOOT or one of the main loop (R25). -/
theorem boot_or_mainLoop_of_inProgressR {u : UStep} {i : Instr} (h : inProgressR u = some i) :
    i = .boot ∨ ∃ k, MainLoop k i := by
  cases u <;> cases h
  case s1 => exact .inr ⟨_, .svc⟩
  case b1 | b2 | b3 | b4 => exact .inr ⟨_, .banner⟩
  case e1 | e2 | e3 | e4 | e5 | e6 | e7 | e8 => exact .inr ⟨_, .egress⟩
  case i1 | i2 | i3 | i4 => exact .inr ⟨_, .ingress⟩
  case l1 | l2 | l3 | l4 => exact .inr ⟨_, .indic⟩
  case t1 | t2 => exact .inl rfl

/-- A row of the R sequencer's words is BOOT's, at 0, or one of the main loop (R93). -/
theorem boot_or_mainLoop_of_schedulerRow {row : BitVec 3 × Word × Instr} (h : row ∈ schedulerRows) :
    (row.1 = 0#3 ∧ row.2.2 = .boot) ∨ ∃ k, MainLoop k row.2.2 := by
  simp only [schedulerRows, List.mem_cons, List.not_mem_nil, or_false] at h
  obtain rfl | rfl | rfl | rfl | rfl | rfl := h
  · exact .inl ⟨rfl, rfl⟩
  · exact .inr ⟨_, .svc⟩
  · exact .inr ⟨_, .banner⟩
  · exact .inr ⟨_, .egress⟩
  · exact .inr ⟨_, .ingress⟩
  · exact .inr ⟨_, .indic⟩

/-- At the legal values of `sched_step` the R sequencer has a word (R24, R93). -/
theorem wordR_of_le_five {s : State} (hk : s.schedStep.toNat ≤ 5) : ∃ w, wordR s = some w := by
  simp only [wordR, hk, if_true]
  split <;> exact ⟨_, rfl⟩

/-- The R sequencer's turn answers a next state (R201, R202, R206). -/
theorem turnR_next {s : State} (h : Inv s) : ∃ t, turnR s = .next t := by
  cases hi : inProgressR s.ustep with
  | some i =>
    rw [turnR_of_inProgress hi]
    obtain rfl | ⟨k, hloop⟩ := boot_or_mainLoop_of_inProgressR hi
    · exact execBoot_next (.inr hi) fun hu => by simp [hu, inProgressR] at hi
    · exact hloop.exec_next (.inr hi) h
  | none =>
    have hu : s.ustep = .idle := inProgressR_eq_none_iff.1 hi
    obtain ⟨hle, -⟩ := h.ranges
    obtain ⟨w, hw⟩ := wordR_of_le_five hle
    obtain ⟨row, hrow, hk, rfl⟩ := schedulerRow_of_wordR hw
    rw [turnR_of_legal_word hu hw (decode_schedulerRows row hrow)]
    obtain ⟨h0, hboot⟩ | ⟨k, hloop⟩ := boot_or_mainLoop_of_schedulerRow hrow
    · rw [hboot]
      exact execBoot_next (.inl hu) fun _ => hk.trans h0
    · exact hloop.exec_next (.inl hu) (h.congr rfl)

/-! ## Every agent (R12) -/

/-- Settles O58: the two sequencers go on from the good state in which their step begins, and no other agent stops. -/
theorem noAgentStopsTheLoop : Obligations.NoAgentStopsTheLoop := by
  intro s a h ht
  have hbegin : Inv (beginStep s) := h.congr (architectural_beginStep s)
  rw [step_of_agent ht]
  cases a with
  | w => exact turnW_next hbegin
  | r => exact turnR_next hbegin
  | syncH | syncT | time | rx | txReady => exact ⟨_, rfl⟩

end Sys2Proof.Machine
end

section
/-! PROOFS. EGRESS as a whole with no other agent between its micro-steps (R151 to R157): it plans, copies, sends and
releases, and leaves all else alone. -/

namespace Sys2Proof.Machine

/-! ## What EGRESS leaves alone -/

/-- `s` with what EGRESS may write as it is in `t`: `tail`, the position of the R sequencer, its own working registers,
the USB transmit side and the port signals. -/
def egressWrites (s t : State) : State :=
  { s with
    ring := { s.ring with tail := t.ring.tail }
    schedStep := t.schedStep
    ustep := t.ustep
    scratch := { s.scratch with
      egBuf := t.scratch.egBuf, egA := t.scratch.egA, egS := t.scratch.egS, egK := t.scratch.egK,
      egGot := t.scratch.egGot, egAcc := t.scratch.egAcc }
    usb := { s.usb with tx := t.usb.tx, space := t.usb.space }
    strobes := t.strobes
    ports := t.ports }

/-- A micro-step of EGRESS writes nothing else (R151). -/
theorem MicroStepR.eq_egressWrites {s t : State} (m : MicroStepR s .egress t) : t = egressWrites s t := by
  cases m with
  | ring _ h | egressE8 _ _ h | egressE8End h => cases h <;> rfl
  | _ => rfl

/-- EGRESS alone writes nothing else, however far it runs. -/
theorem eq_egressWrites_of_runAlone {n : Nat} {s t : State} (h : runAlone .egress n s = .next t) :
    t = egressWrites s t := by
  induction n generalizing s with
  | zero => cases h; rfl
  | succ n ih =>
    unfold runAlone at h
    split at h
    next u hexec =>
      have hu : u = egressWrites s u := (microStepR_of_execEgress hexec).eq_egressWrites
      split at h
      next => cases h; exact hu
      next =>
        calc t
          _ = egressWrites u t := ih h
          _ = egressWrites (egressWrites s u) t := congrArg (egressWrites · t) hu
    next => cases h
    next => cases h

/-! ## The plan (E0 to E4) -/

/-- The state at E4: the target is fixed and nothing has been copied (R151, R152). -/
def egressPlanned (s : State) : State := egressE3 (egressE2 (egressE1 s))

/-- E0 to E3 with the host connected fix the target (R151). -/
theorem runAlone_egress_plan (n : Nat) {s : State} (hu : s.ustep = .idle) (hconn : s.usb.connected = true) :
    runAlone .egress (n + 4) s = runAlone .egress n (egressPlanned s) := by
  have he0 : exec .egress s = .next { s with ustep := .e1 } := by simp [exec, execEgress, hu, egressE0, hconn]
  have he1 : exec .egress { s with ustep := .e1 } = .next (egressE1 s) := rfl
  have he2 : exec .egress (egressE1 s) = .next (egressE2 (egressE1 s)) := rfl
  have he3 : exec .egress (egressE2 (egressE1 s)) = .next (egressPlanned s) := rfl
  rw [runAlone_succ_of_busy (n + 3) he0 rfl, runAlone_succ_of_busy (n + 2) he1 rfl,
    runAlone_succ_of_busy (n + 1) he2 rfl, runAlone_succ_of_busy n he3 rfl]

/-- The target is what the consumer sees, what fits and 64, the least of the three (R152). -/
theorem egressPlanned_egK_toNat (s : State) :
    (egressPlanned s).scratch.egK.toNat = min (seen s) (min s.usb.space 64) := by
  have havail : (egressE2 (egressE1 s)).scratch.egA.toNat = seen s := availOp_data_toNat (presentR s (encode .avail))
  rw [← havail]
  exact egressTarget_toNat (egressE2 (egressE1 s))

/-- The plan touches neither the ring, the USB side nor the bytes of the buffer (R151). -/
theorem egressPlanned_fields (s : State) :
    (egressPlanned s).ring = s.ring ∧ (egressPlanned s).usb = s.usb ∧
    (egressPlanned s).scratch.egBuf = s.scratch.egBuf ∧ (egressPlanned s).scratch.egGot.toNat = 0 :=
  ⟨rfl, rfl, rfl, rfl⟩

/-- E4 with nothing to send ends EGRESS (R151, R153). -/
theorem runAlone_egress_e4_none (m : Nat) {s : State} (hu : s.ustep = .e4) (hk : s.scratch.egK = 0#7) :
    runAlone .egress (m + 1) s = .next (finishR 3#3 s) := by
  have hexec : exec .egress s = .next (finishR 3#3 s) := by simp [exec, execEgress, hu, egressE4, hk]
  exact runAlone_succ_of_done m hexec rfl

/-- E4 begins the copy of a target that is not empty (R151). -/
theorem runAlone_egress_e4_some (m : Nat) {s : State} (hu : s.ustep = .e4) (hk : s.scratch.egK ≠ 0#7) :
    runAlone .egress (m + 1) s = runAlone .egress m { s with ustep := .e5 0#6 } := by
  have hexec : exec .egress s = .next { s with ustep := .e5 0#6 } := by simp [exec, execEgress, hu, egressE4, hk]
  exact runAlone_succ_of_busy m hexec rfl

/-! ## The copy (E5) -/

/-- In `t` EGRESS has copied the `i` oldest bytes of the ring as it was in `s`, of the `n` it is to send; it has written
neither the ring nor the USB side (R151, R154). -/
structure EgressCopied (s : State) (n i : Nat) (t : State) : Prop where
  ring : t.ring = s.ring
  usb : t.usb = s.usb
  target : t.scratch.egK.toNat = n
  room : t.scratch.egBuf.length = 64
  count : t.scratch.egGot.toNat = i
  bytes : Copied t i

/-- E5 copies the next byte, which the consumer sees (R114, R154). -/
theorem EgressCopied.after_egressE5 {s t : State} {n : Nat} {i : BitVec 6} (h : EgressCopied s n i.toNat t)
    (hseen : i.toNat < seen s) : EgressCopied s n (i.toNat + 1) (egressE5 i t) := by
  obtain ⟨-, e⟩ | ⟨hnone, -⟩ := egressE5_cases i t
  · rw [e]
    exact ⟨h.ring, h.usb, h.target, List.length_set.trans h.room, count_toNat i.isLt, h.bytes.egressCopy h.room⟩
  · rw [h.ring] at hnone
    exact absurd hseen hnone.not_gt

/-- Where E5 goes after a byte: on to the next index, or to the write (R151). -/
theorem EgressCopied.ustep_egressE5 {s t : State} {n : Nat} {i : BitVec 6} (h : EgressCopied s n i.toNat t)
    (hseen : i.toNat < seen s) : (egressE5 i t).ustep = if i.toNat + 1 < n then .e5 (i + 1#6) else .e6 := by
  have hseen' : i.toNat < seen t := by rwa [seen, h.ring]
  rw [egressE5_of_lt hseen', ← h.target]

/-- A micro-step at E5 that stays inside EGRESS (R151). -/
theorem runAlone_egress_e5 (m : Nat) {t : State} {i : BitVec 6} (hu : t.ustep = .e5 i)
    (hbusy : (egressE5 i t).ustep ≠ .idle) :
    runAlone .egress (m + 1) t = runAlone .egress m (egressE5 i t) := by
  have hexec : exec .egress t = .next (egressE5 i t) := by rw [exec, execEgress, hu]
  exact runAlone_succ_of_busy m hexec (decide_eq_false hbusy)

/-- The copy ends with all bytes of the target, where the consumer sees that many (R151, R154). -/
theorem runAlone_egress_copy (m k : Nat) {s t : State} {n : Nat} {i : BitVec 6} (hu : t.ustep = .e5 i)
    (h : EgressCopied s n i.toNat t) (hleft : i.toNat + (k + 1) = n) (hseen : n ≤ seen s) (h64 : n ≤ 64) :
    ∃ u, runAlone .egress (m + (k + 1)) t = runAlone .egress m u ∧ u.ustep = .e6 ∧ EgressCopied s n n u := by
  induction k generalizing t i with
  | zero =>
    have hstep : (egressE5 i t).ustep = .e6 := (h.ustep_egressE5 (by omega)).trans (if_neg (by omega))
    have hcopied := h.after_egressE5 (by omega)
    rw [hleft] at hcopied
    exact ⟨_, runAlone_egress_e5 m hu (hstep.trans_ne nofun), hstep, hcopied⟩
  | succ k ih =>
    have hstep : (egressE5 i t).ustep = .e5 (i + 1#6) := (h.ustep_egressE5 (by omega)).trans (if_pos (by omega))
    have hnext : (i + 1#6).toNat = i.toNat + 1 := by bv_omega
    have hcopied := h.after_egressE5 (by omega)
    rw [← hnext] at hcopied
    obtain ⟨u, hrun, hdone⟩ := ih hstep hcopied (by omega)
    exact ⟨u, (runAlone_egress_e5 _ hu (hstep.trans_ne nofun)).trans hrun, hdone⟩

/-- The plan and the copy bring EGRESS to the write (R151). -/
theorem runAlone_egress_load (m : Nat) {s : State} {n : Nat} (hu : s.ustep = .idle) (hconn : s.usb.connected = true)
    (hbuf : s.scratch.egBuf.length = 64) (hn : n = min (seen s) (min s.usb.space 64)) (hpos : 0 < n) :
    ∃ t, runAlone .egress (m + n + 5) s = runAlone .egress m t ∧ t.ustep = .e6 ∧ EgressCopied s n n t := by
  have htarget : (egressPlanned s).scratch.egK.toNat = n := (egressPlanned_egK_toNat s).trans hn.symm
  obtain ⟨hring, husb, hbytes, hcount⟩ := egressPlanned_fields s
  have hbegin : EgressCopied s n 0 { egressPlanned s with ustep := .e5 0#6 } :=
    ⟨hring, husb, htarget, (congrArg List.length hbytes).trans hbuf, hcount, nofun⟩
  obtain ⟨k, rfl⟩ := Nat.exists_eq_succ_of_ne_zero hpos.ne'
  obtain ⟨t, hcopy, hdone⟩ := runAlone_egress_copy (i := 0#6) m k rfl hbegin (Nat.zero_add _) (by omega) (by omega)
  refine ⟨t, ?_, hdone⟩
  calc runAlone .egress (m + (k + 1) + 5) s
    _ = runAlone .egress (m + (k + 1) + 1) (egressPlanned s) := runAlone_egress_plan (m + (k + 1) + 1) hu hconn
    _ = runAlone .egress (m + (k + 1)) _ := runAlone_egress_e4_some _ rfl (count_pos_iff.1 (htarget ▸ hpos))
    _ = runAlone .egress m t := hcopy

/-! ## The write and the flush (E6, E7) -/

/-- The `n` oldest bytes of the ring, in order (R73, R77). -/
def oldestBytes (n : Nat) (s : State) : List Byte :=
  (List.range n).map fun k => memRead s (s.ring.tail + BitVec.ofNat 12 k)

/-- What EGRESS offers after the copy is the oldest bytes of the ring, in order (R154, R156). -/
theorem EgressCopied.egressBytes_eq {s t : State} {n : Nat} (h : EgressCopied s n n t) (h64 : n ≤ 64) :
    egressBytes t = oldestBytes n s := by
  have hlen : (egressBytes t).length = n := by rw [egressBytes_length, h.count, h.room, min_eq_left h64]
  refine List.ext_getElem (by simp [hlen, oldestBytes]) fun k hk _ => ?_
  have hbyte := h.bytes k (hlen ▸ hk)
  have hroom : k < t.scratch.egBuf.length := by rw [h.room]; omega
  rw [List.getD_eq_getElem _ _ hroom, h.ring, memRead_congr (congrArg (·.buf) h.ring)] at hbyte
  simpa [egressBytes, oldestBytes] using hbyte

/-- The state at E8 after the write and the flush: the first ADV is due (R151). -/
def egressSent (s : State) : State := { usbFlush (egressE6 s) with ustep := .e8 0#7 }

/-- E6 and E7 with the host connected and a byte accepted lead to the first ADV (R151). -/
theorem runAlone_egress_send (m : Nat) {s : State} (hu : s.ustep = .e6) (hconn : s.usb.connected = true)
    (hacc : (egressE6 s).scratch.egAcc ≠ 0#7) :
    runAlone .egress (m + 2) s = runAlone .egress m (egressSent s) := by
  have he6 : exec .egress s = .next (egressE6 s) := by rw [exec, execEgress, hu]; exact if_pos hconn
  have he7 : exec .egress (egressE6 s) = .next (egressSent s) := congrArg _ (if_neg hacc)
  rw [runAlone_succ_of_busy (m + 1) he6 rfl, runAlone_succ_of_busy m he7 rfl]

/-- The USB side after the write and the flush: where there is room for all that is offered, all is accepted (R155,
R246). -/
theorem egressSent_usb {s : State} (hspace : (egressBytes s).length ≤ s.usb.space) :
    (egressSent s).usb = { s.usb with
      tx := s.usb.tx ++ (egressBytes s).map UsbItem.byte ++ [UsbItem.flush]
      space := s.usb.space - (egressBytes s).length } := by
  have hall : usbAccepted s (egressBytes s).length = (egressBytes s).length := min_eq_left hspace
  simp only [egressSent, egressE6, usbFlush, usbWrite, hall, List.take_length]

/-! ## The release (E8) -/

/-- What ADV's step makes of the state (R115). -/
theorem advOp_state (s : State) : (advOp s).2 = { s with ring := s.ring.advanced 1 } := by
  obtain ⟨hempty, e⟩ | ⟨avail, e⟩ := advOp_cases s
  · rw [e, Ring.advanced_of_empty hempty]
  · rw [e, Ring.advanced_succ avail, Ring.advanced_zero]

/-- The state after one of EGRESS's ADVs, before the sequencer moves on (R151 E8). -/
def egressAdv (s : State) : State :=
  respondR (advOp (presentR s (encode .adv))).2 (advOp (presentR s (encode .adv))).1

/-- One ADV of EGRESS moves the ring and the port signals (R115). -/
theorem egressAdv_fields (s : State) :
    (egressAdv s).ring = s.ring.advanced 1 ∧ (egressAdv s).scratch = s.scratch ∧ (egressAdv s).usb = s.usb := by
  rw [egressAdv, advOp_state]
  exact ⟨rfl, rfl, rfl⟩

/-- E8 with `k + 1` ADVs left takes as many micro-steps and releases as many bytes, if the consumer sees them; the last
ends EGRESS (R151, R156). -/
theorem runAlone_egress_release (m k : Nat) {s : State} {j : Count} (hu : s.ustep = .e8 j)
    (hleft : j.toNat + (k + 1) = s.scratch.egAcc.toNat) :
    ∃ q, runAlone .egress (m + (k + 1)) s = .next (finishR 3#3 q) ∧
      q.ring = s.ring.advanced (k + 1) ∧ q.usb = s.usb := by
  induction k generalizing s j with
  | zero =>
    obtain ⟨hring, -, husb⟩ := egressAdv_fields s
    have hlast : egressE8 j s = finishR 3#3 (egressAdv s) := if_neg (by omega)
    have hexec : exec .egress s = .next (finishR 3#3 (egressAdv s)) := by rw [exec, execEgress, hu, ← hlast]
    exact ⟨_, runAlone_succ_of_done m hexec rfl, hring, husb⟩
  | succ k ih =>
    obtain ⟨hring, hscratch, husb⟩ := egressAdv_fields s
    have hmore : egressE8 j s = { egressAdv s with ustep := .e8 (j + 1#7) } := if_pos (by omega)
    have hexec : exec .egress s = .next { egressAdv s with ustep := .e8 (j + 1#7) } := by
      rw [exec, execEgress, hu, ← hmore]
    have hnext : (j + 1#7).toNat = j.toNat + 1 := by bv_omega
    have hleft' : (j + 1#7).toNat + (k + 1) = (egressAdv s).scratch.egAcc.toNat := by rw [hnext, hscratch]; omega
    obtain ⟨q, hrun, hring', husb'⟩ := ih (s := { egressAdv s with ustep := .e8 (j + 1#7) }) rfl hleft'
    refine ⟨q, (runAlone_succ_of_busy _ hexec rfl).trans hrun, ?_, husb'.trans husb⟩
    rw [hring', hring, Ring.advanced_one_advanced]

/-! ## The operation as a whole -/

/-- With nothing to send EGRESS ends at E4 (R151, R153). -/
theorem runAlone_egress_none {s : State} (hu : s.ustep = .idle) (hconn : s.usb.connected = true)
    (hnone : min (seen s) (min s.usb.space 64) = 0) :
    runAlone .egress 135 s = .next (finishR 3#3 (egressPlanned s)) := by
  have hk : (egressPlanned s).scratch.egK = 0#7 :=
    BitVec.eq_of_toNat_eq ((egressPlanned_egK_toNat s).trans hnone)
  exact (runAlone_egress_plan 131 hu hconn).trans (runAlone_egress_e4_none 130 rfl hk)

/-- With `n` bytes to send EGRESS takes five micro-steps to the copy, one for each byte, two to write and flush, and one
for each byte released: 135 are enough for 64 bytes (R151, R157). -/
theorem runAlone_egress_some {s : State} {n : Nat} (hu : s.ustep = .idle) (hconn : s.usb.connected = true)
    (hbuf : s.scratch.egBuf.length = 64) (hn : n = min (seen s) (min s.usb.space 64)) (hpos : 0 < n) :
    ∃ q, runAlone .egress 135 s = .next (finishR 3#3 q) ∧ q.ring = s.ring.advanced n ∧
      q.usb = { s.usb with
        tx := s.usb.tx ++ (oldestBytes n s).map UsbItem.byte ++ [UsbItem.flush], space := s.usb.space - n } := by
  obtain ⟨t, hload, hut, hc⟩ := runAlone_egress_load (128 - 2 * n + n + 2) hu hconn hbuf hn hpos
  have hbytes : egressBytes t = oldestBytes n s := hc.egressBytes_eq (by omega)
  have hlen : (egressBytes t).length = n := by rw [hbytes, oldestBytes, List.length_map, List.length_range]
  have hfits : n ≤ t.usb.space := by rw [hc.usb]; omega
  have hacc : (egressE6 t).scratch.egAcc.toNat = n := by
    rw [egressE6_egAcc hc.room (by rw [hc.count]; omega) (by rwa [hc.count]), hc.count]
  have husb := egressSent_usb (hlen.trans_le hfits)
  rw [hlen, hbytes, hc.usb] at husb
  have hsend := runAlone_egress_send (128 - 2 * n + n) hut ((congrArg (·.connected) hc.usb).trans hconn)
    (count_pos_iff.1 (hacc ▸ hpos))
  obtain ⟨k, rfl⟩ := Nat.exists_eq_succ_of_ne_zero hpos.ne'
  obtain ⟨q, hrelease, hring, husb'⟩ :=
    runAlone_egress_release (s := egressSent t) (128 - 2 * (k + 1)) k rfl ((Nat.zero_add _).trans hacc.symm)
  refine ⟨q, ?_, hring.trans (congrArg (·.advanced (k + 1)) hc.ring), husb'.trans husb⟩
  have hfuel : 135 = 128 - 2 * (k + 1) + (k + 1) + 2 + (k + 1) + 5 := by omega
  rw [hfuel]
  exact hload.trans (hsend.trans hrelease)

/-- EGRESS alone with the host connected ends, having sent and released the `n` bytes of its target (R151, R157). -/
theorem runAlone_egress {s : State} {n : Nat} (hu : s.ustep = .idle) (hconn : s.usb.connected = true)
    (hbuf : s.scratch.egBuf.length = 64) (hn : n = min (seen s) (min s.usb.space 64)) :
    ∃ q, runAlone .egress 135 s = .next (finishR 3#3 q) ∧
      q.ring.tail = s.ring.tail + BitVec.ofNat 12 n ∧ q.usb.space = s.usb.space - n ∧
      q.usb.tx = if n = 0 then s.usb.tx else s.usb.tx ++ (oldestBytes n s).map UsbItem.byte ++ [UsbItem.flush] := by
  obtain rfl | hpos := Nat.eq_zero_or_pos n
  · exact ⟨_, runAlone_egress_none hu hconn hn.symm, (BitVec.add_zero _).symm, rfl, rfl⟩
  · obtain ⟨q, hrun, hring, husb⟩ := runAlone_egress_some hu hconn hbuf hn hpos
    have hall : min n (s.ring.headR - s.ring.tail).toNat = n := min_eq_left (hn.trans_le (min_le_left _ _))
    refine ⟨q, hrun, ?_, by rw [husb], by rw [husb, if_neg hpos.ne']⟩
    rw [hring, Ring.advanced, hall]

/-- Settles O36: the run sends and releases the bytes of its target, and its micro-steps write nothing besides what
`egressWrites` lists. -/
theorem egressSendsTheOldestBytes : Obligations.EgressSendsTheOldestBytes := by
  intro s n hu hconn hbuf hn
  obtain ⟨q, hrun, htail, hspace, htx⟩ := runAlone_egress hu hconn hbuf hn
  have hwrites : finishR 3#3 q = egressWrites s (finishR 3#3 q) := eq_egressWrites_of_runAlone hrun
  have hidle : (finishR 3#3 q).ustep = s.ustep := hu.symm
  rw [oldestBytes, List.map_map] at htx
  refine ⟨_, hrun, ?_, responseWord_plain true, htx⟩
  rw [egressWrites, hidle] at hwrites
  rw [← htail, ← hspace]
  exact hwrites

end Sys2Proof.Machine
end

section
/-! PROOFS. BAUD (R171): the rate that `lc_baud` shows is applied or ignored, the request is consumed, and the guard reads
the same signed and unsigned. -/

namespace Sys2Proof.Machine

/-! ## The rate and the free value (log 12) -/

/-- Applying a rate touches neither the mailbox nor the environment (R171). -/
theorem applyBaud_frame (r : Baud) (s : State) : (applyBaud r s).usb = s.usb ∧ (applyBaud r s).env = s.env := by
  obtain ⟨-, -, e⟩ | ⟨-, e⟩ := applyBaud_cases r s <;> rw [e] <;> exact ⟨rfl, rfl⟩

/-- BAUD uses up a free value unless the mailbox holds a request (R171, log 12). -/
theorem baudOp_env (s : State) :
    (baudOp s).env = { s.env with draws := s.env.draws + (if s.usb.lcValid then 0 else 1) } := by
  obtain ⟨husb, henv⟩ := applyBaud_frame (lcBaudShown s) s
  simp only [baudOp, lcAckPulse_fields, dropIdleBaud_fields, husb, henv]

/-! ## The step (R171, R248) -/

/-- BAUD always answers `0x4000` (R98, R171). -/
theorem exec_baud_eq (s : State) : exec .baud s = .next (answeredR (baudOp s) 0x4000#16) := by
  rw [exec, execBaud, respondR_plain]
  rfl

/-- A rate in range is set on the UART and mirrored, and the request is consumed (R171). -/
theorem baudOp_of_legal {s : State} (h : 1 ≤ (lcBaudShown s).toNat ∧ (lcBaudShown s).toNat ≤ 921600) :
    baudOp s = { s with
      baudCfg := lcBaudShown s
      uart := { s.uart with rate := lcBaudShown s }
      usb := { s.usb with lcValid := false }
      strobes := { s.strobes with uartSetBaud := some (lcBaudShown s), lcAck := true }
      env := (baudOp s).env } := by
  obtain ⟨-, -, e⟩ | ⟨hnot, -⟩ := applyBaud_cases (lcBaudShown s) s
  · rw [baudOp, e]
    rfl
  · exact absurd h hnot

/-- Any other rate is ignored, and the request is consumed (R171). -/
theorem baudOp_of_illegal {s : State} (h : ¬(1 ≤ (lcBaudShown s).toNat ∧ (lcBaudShown s).toNat ≤ 921600)) :
    baudOp s = { s with
      usb := { s.usb with lcValid := false }
      strobes := { s.strobes with lcAck := true }
      env := (baudOp s).env } := by
  obtain ⟨h1, h2, -⟩ | ⟨-, e⟩ := applyBaud_cases (lcBaudShown s) s
  · exact absurd ⟨h1, h2⟩ h
  · rw [baudOp, e]
    rfl

/-! ## The guard's two readings (R171 f) -/

/-- A pattern is in range unsigned when it is in range signed: 921600 is below the sign bit, and a pattern that has it is
negative (R171 f). -/
theorem baudGuard_iff_signed (p : BitVec 32) :
    (1 ≤ p.toNat ∧ p.toNat ≤ 921600) ↔ (0 < p.toInt ∧ p.toInt ≤ 921600) := by
  have hlt := p.isLt
  rw [BitVec.toInt_eq_toNat_cond]
  split <;> omega

/-- Settles O32: the rate is the one that `lc_baud` shows, and BAUD's step is taken apart by the guard. -/
theorem baudGuardSetsOrIgnores : Obligations.BaudGuardSetsOrIgnores := by
  refine ⟨fun s => ⟨lcBaudShown s, _, exec_baud_eq s, fun hreq => ⟨if_pos hreq, ?_⟩, fun hnone => ?_, fun hlegal => ?_,
    fun hillegal => ?_⟩, baudGuard_iff_signed⟩
  · exact (baudOp_env s).trans (by rw [hreq]; rfl)
  · exact (baudOp_env s).trans (by rw [hnone]; rfl)
  · exact congrArg (answeredR · 0x4000#16) (baudOp_of_legal hlegal)
  · exact congrArg (answeredR · 0x4000#16) (baudOp_of_illegal hillegal)

end Sys2Proof.Machine
end

section
/-! PROOFS. INDIC (R181 to R187): its micro-steps line by line, and the whole with no other agent between its
micro-steps. -/

namespace Sys2Proof.Machine

/-! ## The gate and the evaluation, by elapsed times (R181, R183, R187) -/

/-- L2 with the gate closed (R182). -/
theorem indicL2_of_lt {s : State} (h : (s.scratch.tNow - s.led.last).toNat < 100) : indicL2 s = finishR 5#3 s :=
  if_pos (BitVec.lt_def.2 h)

/-- L2 with the gate open (R182). -/
theorem indicL2_of_le {s : State} (h : 100 ≤ (s.scratch.tNow - s.led.last).toNat) :
    indicL2 s = { s with ustep := .l3 } :=
  if_neg fun hlt => h.not_gt (BitVec.lt_def.1 hlt)

/-- Activity toggles the output (R184). -/
theorem evaluate_of_active {s : State} (h : (s.scratch.tNow - s.scratch.tLa).toNat < 200) :
    evaluate s = { s.led with mode := 0#2, out := !s.led.out } := by
  obtain ⟨-, e⟩ | ⟨hquiet, -⟩ | ⟨hquiet, -⟩ := evaluate_cases s
  · exact e
  · exact absurd (BitVec.lt_def.2 h) hquiet
  · exact absurd (BitVec.lt_def.2 h) hquiet

/-- Connection without activity lights the output (R185). -/
theorem evaluate_of_connected {s : State} (h : 200 ≤ (s.scratch.tNow - s.scratch.tLa).toNat)
    (hconn : s.usb.connected = true) : evaluate s = { s.led with mode := 1#2, out := true } := by
  obtain ⟨hactive, -⟩ | ⟨-, -, e⟩ | ⟨-, hconn', -⟩ := evaluate_cases s
  · exact absurd (BitVec.lt_def.1 hactive) h.not_gt
  · exact e
  · exact absurd (hconn.symm.trans hconn') nofun

/-- Without activity or connection the phase advances, and its bit 2 drives the output (R186). -/
theorem evaluate_of_idle {s : State} (h : 200 ≤ (s.scratch.tNow - s.scratch.tLa).toNat)
    (hconn : s.usb.connected = false) : evaluate s = { s.led with
      mode := 2#2, phase := s.led.phase + 1#8, out := (s.led.phase + 1#8).getLsbD 2 } := by
  obtain ⟨hactive, -⟩ | ⟨-, hconn', -⟩ | ⟨-, -, e⟩ := evaluate_cases s
  · exact absurd (BitVec.lt_def.1 hactive) h.not_gt
  · exact absurd (hconn.symm.trans hconn') nofun
  · exact e

/-- An evaluation leaves `led_last`, which L3 has set (R181). -/
theorem evaluate_last (s : State) : (evaluate s).last = s.led.last := by
  obtain ⟨-, e⟩ | ⟨-, -, e⟩ | ⟨-, -, e⟩ := evaluate_cases s <;> rw [e]

/-! ## The micro-steps (R181) -/

/-- L4 ends INDIC with the indicator evaluated (R181). -/
theorem ended_indicL4 {s : State} {l : Led} (h : evaluate s = l) : Ended 5#3 { s with led := l } (indicL4 s) := by
  rw [← h]
  exact ended_finishR 5#3 _

/-- Settles O39: each position is the line of R181 it is named after, and each test selects its branch. -/
theorem indicMicroSteps : Obligations.IndicMicroSteps := by
  intro s
  refine ⟨fun hu => ?l0, fun hu => ?l1, fun hu hclosed => ?l2End, fun hu hopen => ?l2, fun hu => ?l3,
    fun hu hactive => ?l4Active, fun hu hquiet hconn => ?l4Connected, fun hu hquiet hconn => ?l4Idle⟩
  all_goals simp only [exec, execIndic, hu]
  case l0 => rfl
  case l1 => rfl
  case l2End => exact ⟨_, congrArg _ (indicL2_of_lt hclosed), ended_finishR 5#3 s⟩
  case l2 => exact congrArg _ (indicL2_of_le hopen)
  case l3 => rfl
  case l4Active => exact ⟨_, rfl, ended_indicL4 (evaluate_of_active hactive)⟩
  case l4Connected => exact ⟨_, rfl, ended_indicL4 (evaluate_of_connected hquiet hconn)⟩
  case l4Idle => exact ⟨_, rfl, ended_indicL4 (evaluate_of_idle hquiet hconn)⟩

/-! ## INDIC as a whole -/

/-- The state at L2 of an INDIC that began in `s`: the two clocks are sampled, activity first (R181, R274). -/
def indicSampled (s : State) : State :=
  { s with ustep := .l2, scratch := { s.scratch with tLa := s.lastActivity, tNow := s.nowMs } }

/-- The state at L4 of an INDIC that began in `s` and found the gate open (R181). -/
def indicOpened (s : State) : State :=
  { indicSampled s with ustep := .l4, led := { s.led with last := s.nowMs } }

/-- INDIC alone reaches the gate in two micro-steps. -/
theorem runAlone_indic_sample (n : Nat) {s : State} (hu : s.ustep = .idle) :
    runAlone .indic (n + 2) s = runAlone .indic n (indicSampled s) := by
  have hl0 : exec .indic s = .next (indicL0 s) := by simp only [exec, execIndic, hu]
  have hl1 : exec .indic (indicL0 s) = .next (indicSampled s) := rfl
  rw [runAlone_succ_of_busy (n + 1) hl0 rfl, runAlone_succ_of_busy n hl1 rfl]

/-- INDIC alone with the gate closed ends there. -/
theorem runAlone_indic_closed {s : State} (hu : s.ustep = .idle) (hclosed : (s.nowMs - s.led.last).toNat < 100) :
    runAlone .indic 5 s = .next (finishR 5#3 (indicSampled s)) := by
  have hl2 : exec .indic (indicSampled s) = .next (finishR 5#3 (indicSampled s)) :=
    congrArg Host.Outcome.next (indicL2_of_lt (s := indicSampled s) hclosed)
  rw [runAlone_indic_sample 3 hu, runAlone_succ_of_done 2 hl2 rfl]

/-- INDIC alone with the gate open ends with an evaluation. -/
theorem runAlone_indic_open {s : State} (hu : s.ustep = .idle) (hopen : 100 ≤ (s.nowMs - s.led.last).toNat) :
    runAlone .indic 5 s = .next (indicL4 (indicOpened s)) := by
  have hl2 : exec .indic (indicSampled s) = .next { indicSampled s with ustep := .l3 } :=
    congrArg Host.Outcome.next (indicL2_of_le (s := indicSampled s) hopen)
  have hl3 : exec .indic { indicSampled s with ustep := .l3 } = .next (indicOpened s) := rfl
  have hl4 : exec .indic (indicOpened s) = .next (indicL4 (indicOpened s)) := rfl
  rw [runAlone_indic_sample 3 hu, runAlone_succ_of_busy 2 hl2 rfl, runAlone_succ_of_busy 1 hl3 rfl,
    runAlone_succ_of_done 0 hl4 rfl]

/-- The end of an INDIC that began in `s`, whatever it has made of the indicator (R98, R201). -/
theorem finishR_indic_frame {s q : State} (hu : s.ustep = .idle)
    (hq : q = { indicSampled s with ustep := q.ustep, led := q.led }) :
    finishR 5#3 q = { s with
      schedStep := (finishR 5#3 q).schedStep
      led := q.led
      scratch := { s.scratch with tLa := s.lastActivity, tNow := s.nowMs }
      ports := { s.ports with rResp := 0x4000#16 } } := by
  obtain ⟨hended, -⟩ := ended_finishR 5#3 q
  rw [hq, ← hu] at hended
  rw [hq]
  exact hended

/-- Settles O40: with the gate closed the run ends at L2; with it open L3 takes the time, which the evaluation keeps, and
the evaluation is the first of its cases that holds. -/
theorem indicatorShowsTheFirstThatHolds : Obligations.IndicatorShowsTheFirstThatHolds := by
  intro s hu
  obtain hclosed | hopen := lt_or_ge (s.nowMs - s.led.last).toNat 100
  · exact ⟨_, runAlone_indic_closed hu hclosed, finishR_indic_frame hu rfl, fun _ => rfl,
      fun hopen => absurd hclosed hopen.not_gt⟩
  · refine ⟨_, runAlone_indic_open hu hopen, finishR_indic_frame hu rfl, fun hclosed => absurd hclosed hopen.not_gt,
      fun _ => ⟨evaluate_last (indicOpened s), fun hactive => ?active, fun hquiet hconn => ?connected,
        fun hquiet hconn => ?idle⟩⟩
    all_goals simp only [indicL4, finishR_fields]
    case active =>
      rw [evaluate_of_active (s := indicOpened s) hactive]
      exact ⟨rfl, rfl, rfl⟩
    case connected =>
      rw [evaluate_of_connected (s := indicOpened s) hquiet hconn]
      exact ⟨rfl, rfl, rfl⟩
    case idle =>
      rw [evaluate_of_idle (s := indicOpened s) hquiet hconn]
      exact ⟨rfl, rfl, rfl⟩

end Sys2Proof.Machine
end

section
/-! PROOFS. BANNER (R191, R192): its micro-steps line by line, and that it is sent once. -/

namespace Sys2Proof.Machine

/-! ## The micro-steps (R191) -/

/-- What BANNER makes of the state in one atomic step: the lines of R191, each where its test selects it. -/
inductive BannerStep (s : State) : State → Prop
  | b0End (hu : s.ustep = .idle) (sent : s.bannerSent = true) : BannerStep s (finishR 2#3 s)
  | b0 (hu : s.ustep = .idle) (unsent : s.bannerSent = false) : BannerStep s { s with ustep := .b1 }
  | b1End (hu : s.ustep = .b1) (absent : s.usb.connected = false) : BannerStep s (finishR 2#3 s)
  | b1 (hu : s.ustep = .b1) (conn : s.usb.connected = true) : BannerStep s { s with ustep := .b2 }
  | b2 (hu : s.ustep = .b2) (conn : s.usb.connected = true) : BannerStep s (bannerB2 s)
  | b3 (hu : s.ustep = .b3) : BannerStep s (bannerB3 s)
  | b4 (hu : s.ustep = .b4) : BannerStep s (bannerB4 s)

/-- The inversion of BANNER, with every test (R191). -/
theorem bannerStep_of_execBanner {s t : State} (h : execBanner s = .next t) : BannerStep s t := by
  unfold execBanner at h
  split at h
  next hu =>
    cases h
    unfold bannerB0
    split
    next sent => exact .b0End hu sent
    next unsent => exact .b0 hu (by simpa using unsent)
  next hu =>
    cases h
    unfold bannerB1
    split
    next conn => exact .b1 hu conn
    next absent => exact .b1End hu (by simpa using absent)
  next hu =>
    split at h
    next conn => cases h; exact .b2 hu conn
    next => cases h
  next hu => cases h; exact .b3 hu
  next hu => cases h; exact .b4 hu
  next => cases h

/-- B2 with the host connected is the write (R191). -/
theorem exec_banner_b2 {s : State} (hu : s.ustep = .b2) (hconn : s.usb.connected = true) :
    exec .banner s = .next (bannerB2 s) := by
  simp only [exec, execBanner, hu, hconn, if_true]

/-- BANNER with the flag set ends at once (R192). -/
theorem exec_banner_of_sent {s : State} (hu : s.ustep = .idle) (hsent : s.bannerSent = true) :
    exec .banner s = .next (finishR 2#3 s) := by
  simp only [exec, execBanner, hu, bannerB0, hsent, if_true]

/-- Settles O41: each position is the line of R191 it is named after, and each test selects its branch. -/
theorem bannerMicroSteps : Obligations.BannerMicroSteps := by
  intro s
  refine ⟨fun hu hsent => ⟨_, exec_banner_of_sent hu hsent, ended_finishR 2#3 s⟩, fun hu hunsent => ?b0,
    fun hu habsent => ⟨_, ?b1End, ended_finishR 2#3 s⟩, fun hu hconn => ?b1, fun acc hu hconn hacc => ?b2,
    fun hu => ?b3, fun hu => ⟨_, ?b4, ended_finishR 2#3 _⟩⟩
  case b2 =>
    subst hacc
    exact exec_banner_b2 hu hconn
  all_goals simp only [exec, execBanner, hu]
  case b0 => simp [bannerB0, hunsent]
  case b1End => simp [bannerB1, habsent]
  case b1 => simp [bannerB1, hconn]
  case b3 => rfl
  case b4 => rfl

/-! ## The flag (R29, R192) -/

/-- BANNER leaves the flag, but for B4, which sets it (R191). -/
theorem BannerStep.bannerSent_cases {s t : State} (b : BannerStep s t) :
    t.bannerSent = s.bannerSent ∨ (s.ustep = .b4 ∧ t.bannerSent = true) := by
  cases b with
  | b4 hu => exact .inr ⟨hu, rfl⟩
  | _ => exact .inl rfl

/-- The other operations of the R domain leave the flag (R21, R29). -/
theorem MicroStepR.bannerSent_eq {s t : State} {i : Instr} (m : MicroStepR s i t) (hi : i ≠ .banner) :
    t.bannerSent = s.bannerSent := by
  cases m with
  | ring _ h | egressE8 _ _ h | egressE8End h => cases h <;> rfl
  | baud _ h | svcS1 _ h => cases h <;> rfl
  | bannerB4 => exact absurd rfl hi
  | _ => rfl

/-- The flag after an operation of the R port. -/
theorem bannerSent_cases_of_exec_r {i : Instr} {s t : State} (hi : WellFormed .r i = true)
    (hu : s.ustep = .idle ∨ inProgressR s.ustep = some i) (h : exec i s = .next t) :
    t.bannerSent = s.bannerSent ∨ (s.ustep = .b4 ∧ t.bannerSent = true) := by
  by_cases hbanner : i = .banner
  · subst hbanner
    exact (bannerStep_of_execBanner h).bannerSent_cases
  · exact .inl ((microStepR_of_exec hi hu h).bannerSent_eq hbanner)

/-- A step leaves the flag, but for B4 in the R sequencer's turn, which sets it. -/
theorem bannerSent_cases_of_step {s t : State} (h : step s = .next t) :
    t.bannerSent = s.bannerSent ∨ (nextTurn s = .agent .r ∧ s.ustep = .b4 ∧ t.bannerSent = true) := by
  obtain o | ⟨p, i, x, hr, hx⟩ := runs_of_step h
  · exact .inl (congrArg (·.bannerSent) o.registers_eq.2)
  · have hsent : x.bannerSent = s.bannerSent := congrArg (·.bannerSent) hr.registers
    have hustep : x.ustep = s.ustep := congrArg (·.ustep) hr.registers
    cases p with
    | w =>
      have e := congrArg (·.bannerSent) (microStepW_of_exec hr.legal hx).registersR_eq
      exact .inl (e.trans hsent)
    | r =>
      obtain e | ⟨hu, e⟩ := bannerSent_cases_of_exec_r hr.legal (hr.position rfl) hx
      · exact .inl (e.trans hsent)
      · rw [hustep] at hu
        exact .inr ⟨hr.agent_of_busy (by simp [portFree, hu]), hu, e⟩

/-- Settles O42: only B4 writes the flag, and BANNER ends at its first test once the flag is set. -/
theorem bannerIsSentOncePerPowerCycle : Obligations.BannerIsSentOncePerPowerCycle := by
  refine ⟨fun s t h hsent => ?kept, fun s t h hunsent hsent => ?set, fun s hu hsent => ?silent⟩
  case kept =>
    obtain e | ⟨-, -, e⟩ := bannerSent_cases_of_step h
    · exact e.trans hsent
    · exact e
  case set =>
    obtain e | ⟨ht, hu, -⟩ := bannerSent_cases_of_step h
    · exact absurd (hsent.symm.trans (e.trans hunsent)) nofun
    · exact ⟨ht, hu⟩
  case silent =>
    exact ⟨_, runAlone_succ_of_done 4 (exec_banner_of_sent hu hsent) rfl, ended_finishR 2#3 s, rfl⟩

end Sys2Proof.Machine
end

section
/-! PROOFS. Until the banner is written the USB transmit buffer is empty (R279): every step of an agent keeps
`BannerPending`, since SVC moves the connection at step 1 only, BANNER leaves step 2 with the host absent or the banner
sent, and EGRESS sends nothing to an absent host. -/

namespace Sys2Proof.Machine

/-! ## Micro-steps that send nothing -/

/-- A micro-step of operation `i`, which has number `k` in the main loop, that sends nothing: the flag, the transmit space
and the connection stay, and the operation ends or goes on (R201). -/
structure QuietStep (k : BitVec 3) (i : Instr) (s t : State) : Prop where
  bannerSent_eq : t.bannerSent = s.bannerSent
  space_eq : t.usb.space = s.usb.space
  connected_eq : t.usb.connected = s.usb.connected
  position : (t.ustep = .idle ∧ t.schedStep = if s.schedStep = k then nextSchedStep k else s.schedStep) ∨
    (inProgressR t.ustep = some i ∧ t.schedStep = s.schedStep)

/-- Either way of a test. -/
theorem QuietStep.ite {k : BitVec 3} {i : Instr} {s t u : State} {c : Prop} [Decidable c] (ht : QuietStep k i s t)
    (hu : QuietStep k i s u) : QuietStep k i s (if c then t else u) := by
  split
  · exact ht
  · exact hu

/-- The end of an operation with nothing done. -/
theorem quietStep_finishR (k : BitVec 3) (i : Instr) (s : State) : QuietStep k i s (finishR k s) :=
  ⟨rfl, rfl, rfl, .inl ⟨rfl, rfl⟩⟩

/-- A passed test leads to the next position (R25). -/
theorem quietStep_goesOn {i : Instr} {u : UStep} (k : BitVec 3) (s : State) (hu : inProgressR u = some i) :
    QuietStep k i s { s with ustep := u } :=
  ⟨rfl, rfl, rfl, .inr ⟨hu, rfl⟩⟩

/-- BAUD's step at the end of SVC leaves connection and space (R171, R248). -/
theorem quietStep_svcS1 (s : State) : QuietStep 1#3 .svc s (svcS1 s) := by
  refine .ite ?_ (quietStep_finishR 1#3 .svc s)
  generalize baudOp (presentR s (encode .baud)) = q, baudStep_baudOp (presentR s (encode .baud)) = b
  cases b <;> exact ⟨rfl, rfl, rfl, .inl ⟨rfl, rfl⟩⟩

/-- EGRESS that finds the host absent sends nothing: E0 ends it, and E6 is refused (R151, U15). -/
theorem quietStep_of_execEgress {s t : State} (h : execEgress s = .next t) (habsent : s.usb.connected = false) :
    QuietStep 3#3 .egress s t := by
  cases hu : s.ustep <;> simp only [execEgress, hu, habsent] at h <;> cases h
  case idle => rw [egressE0, habsent]; exact quietStep_finishR 3#3 .egress s
  case e1 | e2 | e3 => exact ⟨rfl, rfl, rfl, .inr ⟨rfl, rfl⟩⟩
  case e4 => exact .ite (quietStep_finishR 3#3 .egress s) (quietStep_goesOn 3#3 s rfl)
  case e5 i =>
    obtain ⟨-, e⟩ | ⟨-, e⟩ := egressE5_cases i s <;> rw [e]
    · exact ⟨rfl, rfl, rfl, .inr ⟨by rw [egressCopy]; split <;> rfl, rfl⟩⟩
    · exact ⟨rfl, rfl, rfl, .inr ⟨rfl, rfl⟩⟩
  case e7 => exact .ite ⟨rfl, rfl, rfl, .inl ⟨rfl, rfl⟩⟩ ⟨rfl, rfl, rfl, .inr ⟨rfl, rfl⟩⟩
  case e8 j =>
    rw [egressE8, advOp_state]
    exact .ite ⟨rfl, rfl, rfl, .inr ⟨rfl, rfl⟩⟩ ⟨rfl, rfl, rfl, .inl ⟨rfl, rfl⟩⟩

/-- INGRESS reads from the host and writes nothing to it (R161). -/
theorem quietStep_of_execIngress {s t : State} (h : execIngress s = .next t) : QuietStep 4#3 .ingress s t := by
  unfold execIngress at h
  split at h
  next => cases h; exact .ite (quietStep_goesOn 4#3 s rfl) (quietStep_finishR 4#3 .ingress s)
  next => cases h; exact .ite (quietStep_goesOn 4#3 s rfl) (quietStep_finishR 4#3 .ingress s)
  next =>
    split at h <;> cases h
    exact ⟨rfl, rfl, rfl, .inr ⟨by rw [ingressI2]; split <;> rfl, rfl⟩⟩
  next j hu =>
    cases h
    obtain ⟨-, e⟩ | ⟨-, e⟩ := ingressI3_cases j s <;> rw [e]
    · exact ⟨rfl, rfl, rfl, .inr ⟨by dsimp only; split <;> rfl, rfl⟩⟩
    · exact ⟨rfl, rfl, rfl, .inr ⟨congrArg inProgressR hu, rfl⟩⟩
  next => cases h; exact .ite (quietStep_finishR 4#3 .ingress s) ⟨rfl, rfl, rfl, .inl ⟨rfl, rfl⟩⟩
  next => cases h

/-- INDIC does not call the host (R181). -/
theorem quietStep_of_execIndic {s t : State} (h : execIndic s = .next t) : QuietStep 5#3 .indic s t := by
  unfold execIndic at h
  split at h
  next => cases h; exact ⟨rfl, rfl, rfl, .inr ⟨rfl, rfl⟩⟩
  next => cases h; exact ⟨rfl, rfl, rfl, .inr ⟨rfl, rfl⟩⟩
  next => cases h; exact .ite (quietStep_finishR 5#3 .indic s) (quietStep_goesOn 5#3 s rfl)
  next => cases h; exact ⟨rfl, rfl, rfl, .inr ⟨rfl, rfl⟩⟩
  next => cases h; exact ⟨rfl, rfl, rfl, .inl ⟨rfl, rfl⟩⟩
  next => cases h

/-- BOOT does not call the host (R205). -/
theorem quietStep_of_execBoot {s t : State} (h : execBoot s = .next t) : QuietStep 0#3 .boot s t := by
  unfold execBoot at h
  split at h
  next => split at h <;> cases h; exact ⟨rfl, rfl, rfl, .inr ⟨rfl, rfl⟩⟩
  next => cases h; exact ⟨rfl, rfl, rfl, .inr ⟨rfl, rfl⟩⟩
  next => cases h; exact ⟨rfl, rfl, rfl, .inl ⟨rfl, rfl⟩⟩
  next => cases h

/-! ## What keeps `BannerPending` (R279) -/

/-- Step 3 and the steps after it are reached from one another and from step 2 only (R24, R201). -/
theorem three_le_of_nextSchedStep : ∀ k : BitVec 3, k ≠ 2#3 → 3 ≤ (nextSchedStep k).toNat → 3 ≤ k.toNat := by
  decide

/-- A micro-step that sends nothing keeps `BannerPending`, where BANNER ends in it for an absent host only. -/
theorem QuietStep.bannerPending {k : BitVec 3} {i : Instr} {s t : State} (q : QuietStep k i s t) (h : BannerPending s)
    (hwhole : s.ustep ≠ .b3 ∧ s.ustep ≠ .b4) (hegress : i = .egress → s.schedStep = 3#3)
    (hbanner : k = 2#3 → t.ustep = .idle → s.usb.connected = false) : BannerPending t := by
  intro hunsent
  obtain ⟨hspace, habsent, -⟩ := h (q.bannerSent_eq.symm.trans hunsent)
  refine ⟨fun _ _ => q.space_eq.trans (hspace hwhole.1 hwhole.2), fun hle => q.connected_eq.trans ?_, fun hi => ?_⟩
  · obtain ⟨hidle, hsched⟩ | ⟨-, hsched⟩ := q.position
    · rw [hsched] at hle
      split at hle
      next hk =>
        by_cases h2 : k = 2#3
        · exact hbanner h2 hidle
        · exact habsent (hk ▸ three_le_of_nextSchedStep k h2 hle)
      next => exact habsent hle
    · exact habsent (hsched ▸ hle)
  · obtain ⟨hidle, -⟩ | ⟨hi', hsched⟩ := q.position
    · simp [hidle, inProgressR] at hi
    · exact hsched.trans (hegress (Option.some.inj (hi'.symm.trans hi)))

/-- Only the registers of the R domain matter. -/
theorem BannerPending.of_registersR_eq {s t : State} (h : BannerPending s) (e : registersR t = registersR s) :
    BannerPending t := by
  have hr : BannerPending (registersR s) := h
  rw [← e] at hr
  exact hr

/-- SVC's service moves the connection at step 1 and leaves a whole transmit space as it is (R203, R244). -/
theorem bannerPending_svcS0 {s : State} (h : BannerPending s) (hu : s.ustep = .idle) (hk : s.schedStep = 1#3) :
    BannerPending (svcS0 s) := by
  intro hunsent
  obtain ⟨hspace, -⟩ := h hunsent
  have hwhole : s.usb.space = Config.USB_TXBUF := hspace (by simp [hu]) (by simp [hu])
  obtain ⟨-, hservice, -⟩ := usbServiceCall_usb s
  rw [hwhole, max_eq_left (Nat.min_le_right _ _)] at hservice
  have hk' : (svcS0 s).schedStep = 1#3 := hk
  exact ⟨fun _ _ => hservice, fun hle => absurd hle (by rw [hk']; decide), nofun⟩

/-- SVC, begun at step 1, keeps it (R203). -/
theorem bannerPending_of_execSvc {s t : State} (ht : execSvc s = .next t) (h : BannerPending s)
    (hfirst : s.ustep = .idle → s.schedStep = 1#3) : BannerPending t := by
  unfold execSvc at ht
  split at ht
  next hu => cases ht; exact bannerPending_svcS0 h hu (hfirst hu)
  next hu => cases ht; exact (quietStep_svcS1 s).bannerPending h (by simp [hu]) nofun nofun
  next => cases ht

/-- EGRESS, at step 3, finds the host absent and keeps it, unless the banner is sent (R151, R200). -/
theorem bannerPending_of_execEgress {s t : State} (ht : execEgress s = .next t) (h : BannerPending s)
    (hwhole : s.ustep ≠ .b3 ∧ s.ustep ≠ .b4) (hk : s.bannerSent = false → s.schedStep = 3#3) : BannerPending t := by
  intro hunsent
  have hsent : s.bannerSent = false :=
    ((microStepR_of_execEgress ht).bannerSent_eq nofun).symm.trans hunsent
  obtain ⟨-, habsent, -⟩ := h hsent
  have hconn : s.usb.connected = false := habsent (by rw [hk hsent]; decide)
  exact (quietStep_of_execEgress ht hconn).bannerPending h hwhole (fun _ => hk hsent) nofun hunsent

/-- BANNER keeps it: the steps to the write are quiet, the write and the flush stand at the positions that it leaves out,
and B4 sets the flag (R191). -/
theorem BannerStep.bannerPending {s t : State} (b : BannerStep s t) (h : BannerPending s) : BannerPending t := by
  cases b with
  | b0End _ sent => exact fun hunsent => absurd (sent.symm.trans hunsent) nofun
  | b0 hu | b1 hu => exact (quietStep_goesOn (i := .banner) 2#3 s rfl).bannerPending h (by simp [hu]) nofun nofun
  | b1End hu absent =>
    exact (quietStep_finishR 2#3 .banner s).bannerPending h (by simp [hu]) nofun fun _ _ => absent
  | b2 | b3 =>
    intro hunsent
    obtain ⟨-, habsent, -⟩ := h hunsent
    exact ⟨by simp [bannerB2, bannerB3], habsent, nofun⟩
  | b4 => exact nofun

/-- The R sequencer's operation, in progress or begun at its number, keeps it (R200, R201). -/
theorem bannerPending_of_exec {s t : State} {row : BitVec 3 × Word × Instr} (hrow : row ∈ schedulerRows)
    (hpos : inProgressR s.ustep = some row.2.2 ∨ (s.ustep = .idle ∧ s.schedStep = row.1))
    (ht : exec row.2.2 s = .next t) (h : BannerPending s) : BannerPending t := by
  have hwhole (hi : row.2.2 ≠ .banner) : s.ustep ≠ .b3 ∧ s.ustep ≠ .b4 := by
    constructor <;> intro hu <;> simp [hu, inProgressR, hi.symm] at hpos
  have hfirst (hu : s.ustep = .idle) : s.schedStep = row.1 := by simpa [hu, inProgressR] using hpos
  simp only [schedulerRows, List.mem_cons, List.not_mem_nil, or_false] at hrow
  obtain rfl | rfl | rfl | rfl | rfl | rfl := hrow
  · exact (quietStep_of_execBoot ht).bannerPending h (hwhole nofun) nofun nofun
  · exact bannerPending_of_execSvc ht h hfirst
  · exact (bannerStep_of_execBanner ht).bannerPending h
  · refine bannerPending_of_execEgress ht h (hwhole nofun) fun hunsent => ?_
    obtain ⟨-, -, hegress⟩ := h hunsent
    exact hpos.elim hegress And.right
  · exact (quietStep_of_execIngress ht).bannerPending h (hwhole nofun) nofun nofun
  · exact (quietStep_of_execIndic ht).bannerPending h (hwhole nofun) nofun nofun

/-- An operation in progress in the R domain has a row in the main loop (R25, R93). -/
theorem schedulerRow_of_inProgressR {u : UStep} {i : Instr} (h : inProgressR u = some i) :
    ∃ row ∈ schedulerRows, row.2.2 = i := by
  cases u <;> cases h <;> decide

/-- The R sequencer's turn keeps it (R201). -/
theorem bannerPending_of_turnR {s t : State} (ht : turnR s = .next t) (h : BannerPending s) : BannerPending t := by
  cases hi : inProgressR s.ustep with
  | some i =>
    rw [turnR_of_inProgress hi] at ht
    obtain ⟨row, hrow, rfl⟩ := schedulerRow_of_inProgressR hi
    exact bannerPending_of_exec hrow (.inl hi) ht h
  | none =>
    have hu : s.ustep = .idle := inProgressR_eq_none_iff.1 hi
    cases hw : wordR s with
    | none => simp [turnR, hi, hw] at ht
    | some w =>
      obtain ⟨row, hrow, hk, rfl⟩ := schedulerRow_of_wordR hw
      rw [turnR_of_legal_word hu hw (decode_schedulerRows row hrow)] at ht
      exact bannerPending_of_exec (s := presentR s row.2.1) hrow (.inr ⟨hu, hk⟩) ht h

/-- A step of an agent keeps it: those besides the R sequencer write no register of the R domain (R21). -/
theorem bannerPending_of_step {s t : State} {a : AgentTurn} (ha : nextTurn s = .agent a) (ht : step s = .next t)
    (h : BannerPending s) : BannerPending t := by
  obtain ⟨_, _, hx, -⟩ | e := registersR_of_step ht
  · obtain hr | ⟨_, hr⟩ := hx.moves
    · exact bannerPending_of_turnR ((step_of_agent_r hr).symm.trans ht) h
    · exact absurd (ha.symm.trans hr) nofun
  · exact h.of_registersR_eq e

/-! ## The write (R191 B2, R246) -/

/-- A write into the whole transmit buffer takes the banner whole: the buffer holds at least `BL` bytes (R8, R246). -/
theorem usbAccepted_banner {s : State} (hwhole : s.usb.space = Config.USB_TXBUF) :
    usbAccepted s Config.BANNER.length = Config.BL := by
  rw [usbAccepted, hwhole]
  exact Nat.min_eq_left ((Nat.le_max_left _ _).trans (Nat.le_add_right _ _))

/-- Settles O35: the buffer is empty at reset, each agent's step keeps `BannerPending`, and B2's write fits into it. -/
theorem bannerFindsTheBufferEmpty : Obligations.BannerFindsTheBufferEmpty := by
  refine ⟨fun _ => ⟨fun _ _ => rfl, fun hle => absurd hle (by decide), nofun⟩,
    fun s t a ha h ht => bannerPending_of_step ha ht h, fun s h hunsent hu hconn => ?_⟩
  obtain ⟨hspace, -⟩ := h hunsent
  have hwhole : s.usb.space = Config.USB_TXBUF := hspace (by simp [hu]) (by simp [hu])
  refine ⟨_, exec_banner_b2 hu hconn, ?tx, ?space⟩
  all_goals simp only [bannerB2, usbWrite_fields, usbAccepted_banner hwhole]
  case tx => rw [Config.BL, List.take_length]
  case space => rw [hwhole]

end Sys2Proof.Machine
end

section
/-! PROOFS. Collaborator B outside `usb.service()` (R208, R244, R249): the calls that the operations of the R domain make
on it, each at its position, and whose turn each is. -/

namespace Sys2Proof.Machine

/-! ## The R domain's operation as the step (R99, R201) -/

/-- A step of the R domain is its operation, run from the state in which the word stands on the port. -/
theorem StartR.step_eq {s x : State} {i : Instr} (h : StartR s i x) : step s = exec i x := by
  cases h with
  | harness ht hd hu => exact step_of_harness_legal ht hd ((harnessRefusal_eq_none_iff .r _).2 ⟨nofun, fun _ => hu⟩)
  | busy ht hi => exact (step_of_agent_r ht).trans (turnR_of_inProgress hi)
  | word ht hu hrow hk =>
    exact (step_of_agent_r ht).trans
      (turnR_of_legal_word hu (wordR_of_schedulerRows hrow hk) (decode_schedulerRows _ hrow))

/-- SVC begins at `sched_step = 1` in the R sequencer's turn, or for a harness's word 0xA000 (R93, R203). -/
theorem StartR.serviceMoves {s x : State} {i : Instr} (h : StartR s i x) (hi : i = .svc) (hu : s.ustep = .idle) :
    serviceMoves s := by
  cases h with
  | harness ht hd _ =>
    subst hi
    rw [← encode_of_decode hd] at ht
    exact ⟨hu, .inr ht⟩
  | busy _ hp => simp [hu, inProgressR] at hp
  | word ht _ hrow hk =>
    have hfirst := (by decide : ∀ row ∈ schedulerRows, row.2.2 = Instr.svc → row.1 = 1#3) _ hrow hi
    exact ⟨hu, .inl ⟨ht, hk.trans hfirst⟩⟩

/-! ## The calls on Collaborator B (R244 to R248) -/

/-- What operation `i` makes of Collaborator B in one atomic step taken at position `p`: nothing, or one of the block's
calls. What `usb.service()` makes of it is left open here (R203 S0). -/
inductive UsbCall (u : Usb) (p : UStep) (i : Instr) : Usb → Prop
  | none : UsbCall u p i u
  | service (v : Usb) (hi : i = .svc) (hp : p = .idle) : UsbCall u p i v
  | write (bs : List Byte) (fits : bs.length ≤ u.space) (hp : p = .b2 ∨ p = .e6) :
    UsbCall u p i { u with tx := u.tx ++ bs.map .byte, space := u.space - bs.length }
  | flush (hp : p = .b3 ∨ p = .e7) : UsbCall u p i { u with tx := u.tx ++ [.flush] }
  | read (hp : p = .i2) : UsbCall u p i { u with rx := u.rx.drop 64 }
  | ack (hp : (i = .baud ∧ p = .idle) ∨ p = .s1) : UsbCall u p i { u with lcValid := false }

/-- `usb.write` takes as many bytes into the stream as it uses up space (R246). -/
theorem usbCall_usbWrite {p : UStep} (i : Instr) (s : State) (bytes : List Byte) (hp : p = .b2 ∨ p = .e6) :
    UsbCall s.usb p i (usbWrite s bytes).usb := by
  obtain ⟨hoffered, hfits⟩ := usbAccepted_le s bytes.length
  have hlen : (bytes.take (usbAccepted s bytes.length)).length = usbAccepted s bytes.length :=
    List.length_take_of_le hoffered
  have hcall := UsbCall.write (u := s.usb) (i := i) _ (hlen.trans_le hfits) hp
  rwa [hlen] at hcall

/-- BAUD's step consumes the request and makes no other use of Collaborator B (R171, R248). -/
theorem BaudStep.usb_eq {s q : State} (h : BaudStep s q) : q.usb = { s.usb with lcValid := false } := by
  cases h <;> rfl

/-- EGRESS calls `usb.write` at E6 and `usb.flush` at E7 only (R151). -/
theorem usbCall_of_execEgress {s t : State} (h : execEgress s = .next t) : UsbCall s.usb s.ustep .egress t.usb := by
  unfold execEgress at h
  split at h
  case h_7 hu => split at h <;> cases h; exact usbCall_usbWrite _ s _ (.inr hu)
  case h_8 hu => cases h; unfold egressE7; split <;> exact .flush (.inr hu)
  next => cases h; unfold egressE0; split <;> exact .none
  next => cases h; exact .none
  next => cases h; exact .none
  next => cases h; exact .none
  next => cases h; unfold egressE4; split <;> exact .none
  next i _ => cases h; obtain ⟨-, e⟩ | ⟨-, e⟩ := egressE5_cases i s <;> rw [e] <;> exact .none
  next => cases h; rw [egressE8, advOp_state]; split <;> exact .none
  next => cases h

/-- The other operations of the R domain call Collaborator B at S0, at BAUD, at B2 and B3 and at I2 only (R161, R171, R191,
R203). -/
theorem MicroStepR.usbCall {s t : State} {i : Instr} (m : MicroStepR s i t) (hi : i ≠ .egress) :
    UsbCall s.usb s.ustep i t.usb := by
  cases m with
  | ring _ h => cases h <;> exact .none
  | baud hu h => exact h.usb_eq ▸ .ack (.inl ⟨rfl, hu⟩)
  | svcS0 hu => exact .service _ rfl hu
  | svcS1 hu h => exact h.usb_eq ▸ .ack (.inr hu)
  | bannerB2 hu => exact usbCall_usbWrite _ s Config.BANNER (.inl hu)
  | bannerB3 hu => exact .flush (.inl hu)
  | ingressI2 hu => exact .read hu
  | egressE6 | egressE7 | egressE7End | egressE8 | egressE8End => exact absurd rfl hi
  | _ => exact .none

/-- A step leaves Collaborator B alone, or it is the R domain's and makes one call. -/
theorem usbCall_of_step {s t : State} (h : step s = .next t) :
    t.usb = s.usb ∨ ∃ i x, StartR s i x ∧ UsbCall s.usb s.ustep i t.usb := by
  obtain ⟨i, x, hx, m⟩ | e := registersR_of_step h
  · have husb : x.usb = s.usb := congrArg (·.usb) hx.architectural_eq
    have hustep : x.ustep = s.ustep := congrArg (·.ustep) hx.architectural_eq
    refine .inr ⟨i, x, hx, ?_⟩
    rw [← husb, ← hustep]
    by_cases hi : i = .egress
    · subst hi
      exact usbCall_of_execEgress (hx.step_eq.symm.trans h)
    · exact m.usbCall hi
  · exact .inl (congrArg (·.usb) e)

/-- Settles O47: each call of the block stands at its positions, and between two operations only BAUD's is left to a
harness; every other step leaves Collaborator B as it is. -/
theorem connectionChangesOnlyInService : Obligations.ConnectionChangesOnlyInService := by
  intro s t h hservice
  obtain e | ⟨i, x, hx, call⟩ := usbCall_of_step h
  · rw [e]
    exact ⟨rfl, rfl, rfl, .inl ⟨rfl, rfl⟩, .inl rfl, .inl rfl⟩
  · have hagent {p : UStep} (hu : s.ustep = p) (hp : p ≠ .idle) : nextTurn s = .agent .r :=
      hx.agent_of_busy (hu.trans_ne hp)
    generalize t.usb = v at call ⊢
    cases call with
    | none => exact ⟨rfl, rfl, rfl, .inl ⟨rfl, rfl⟩, .inl rfl, .inl rfl⟩
    | service _ hi hu => exact absurd (hx.serviceMoves hi hu) hservice
    | write bs fits hu =>
      have ht := hu.elim (hagent · nofun) (hagent · nofun)
      exact ⟨rfl, rfl, rfl, .inr (.inl ⟨ht, hu, bs, rfl, Nat.sub_add_cancel fits⟩), .inl rfl, .inl rfl⟩
    | flush hu =>
      have ht := hu.elim (hagent · nofun) (hagent · nofun)
      exact ⟨rfl, rfl, rfl, .inr (.inr ⟨ht, hu, rfl, rfl⟩), .inl rfl, .inl rfl⟩
    | read hu => exact ⟨rfl, rfl, rfl, .inl ⟨rfl, rfl⟩, .inr ⟨hagent hu nofun, hu, rfl⟩, .inl rfl⟩
    | ack hwho =>
      refine ⟨rfl, rfl, rfl, .inl ⟨rfl, rfl⟩, .inl rfl, .inr ⟨rfl, ?_⟩⟩
      obtain ⟨hi, -⟩ | hu := hwho
      · exact .inr (hx.harness_of_baud hi)
      · exact .inl ⟨hagent hu nofun, hu⟩

end Sys2Proof.Machine
end

section
/-! PROOFS. SVC and BOOT (R203, R205): their micro-steps line by line, and BOOT from reset. -/

namespace Sys2Proof.Machine

/-! ## SVC (R203) -/

/-- A held request stays on the mailbox (R203 c). -/
theorem presentRequest_of_held {u : Usb} (h : u.lcValid = true) : presentRequest u = u := by
  obtain ⟨hfree, -⟩ | ⟨-, e⟩ := presentRequest_cases u
  · exact absurd (h.symm.trans hfree) nofun
  · exact e

/-- With no request waiting the mailbox stays as it is (R203 c). -/
theorem presentRequest_of_none {u : Usb} (h : u.lcQueue = []) : presentRequest u = u := by
  obtain ⟨-, _, _, hq, -⟩ | ⟨-, e⟩ := presentRequest_cases u
  · exact absurd (h.symm.trans hq) nofun
  · exact e

/-- The oldest waiting request is presented on a free mailbox (R203 c). -/
theorem presentRequest_of_waiting {u : Usb} {r : Baud} {q : List Baud} (hfree : u.lcValid = false)
    (hq : u.lcQueue = r :: q) : presentRequest u = { u with lcValid := true, lcBaud := r, lcQueue := q } := by
  rw [presentRequest, hfree, hq]

/-- S0 is `usb.service()` (R203). -/
theorem exec_svc_s0 {s : State} (hu : s.ustep = .idle) : exec .svc s = .next (svcS0 s) := by
  simp only [exec, execSvc, hu]

/-- S1 with no request ends SVC (R203). -/
theorem exec_svc_s1_of_none {s : State} (hu : s.ustep = .s1) (hnone : s.usb.lcValid = false) :
    exec .svc s = .next (finishR 1#3 s) := by
  simp only [exec, execSvc, hu, svcS1, hnone, Bool.false_eq_true, if_false]

/-- S1 with a request is BAUD, its word on the port, and the end of SVC (R93, R203). -/
theorem exec_svc_s1_of_request {s : State} (hu : s.ustep = .s1) (hreq : s.usb.lcValid = true) :
    exec .svc s = .next (finishR 1#3 (baudOp (presentR s (encode .baud)))) := by
  simp only [exec, execSvc, hu, svcS1, hreq, if_true]

/-- Settles O43: S0 is taken apart by what the mailbox holds after EnvB's act, and S1 by whether a request is held. -/
theorem svcMicroSteps : Obligations.SvcMicroSteps := by
  intro s
  refine ⟨fun a hu ha => ?service, fun hu hnone => ⟨_, exec_svc_s1_of_none hu hnone, ended_finishR 1#3 s⟩,
    fun hu hreq => ⟨_, _, exec_baud_eq _, exec_svc_s1_of_request hu hreq, ended_finishR 1#3 _⟩⟩
  subst ha
  obtain ⟨hconn, hspace, hrx, htx⟩ := usbServiceCall_usb s
  refine ⟨_, exec_svc_s0 hu, rfl, rfl, rfl, hconn, hspace, hrx, htx, fun hheld => ?_, fun hfree hq => ?_,
    fun r q hfree hq => ?_⟩
  all_goals rw [svcS0, usbServiceCall]; dsimp only
  · rw [presentRequest_of_held (u := hostMoves s.usb (nextHostAct s)) hheld]
    exact ⟨hheld, rfl, rfl⟩
  · rw [presentRequest_of_none (u := hostMoves s.usb (nextHostAct s)) hq]
    exact ⟨hfree, hq⟩
  · rw [presentRequest_of_waiting (u := hostMoves s.usb (nextHostAct s)) hfree hq]
    exact ⟨rfl, rfl, rfl⟩

/-! ## BOOT (R205) -/

/-- T0 of the first BOOT initialises the UART (R205). -/
theorem exec_boot_t0 {s : State} (hu : s.ustep = .idle) (hk : s.schedStep = 0#3) : exec .boot s = .next (bootT0 s) := by
  simp only [exec, execBoot, hu, hk, if_true]

/-- A second BOOT is refused (R205 d). -/
theorem exec_boot_second {s : State} (hu : s.ustep = .idle) (hk : s.schedStep ≠ 0#3) :
    exec .boot s = .refused .secondBoot := by
  simp only [exec, execBoot, hu, hk, if_false]

/-- T1 enables the UART's FIFO (R205). -/
theorem exec_boot_t1 {s : State} (hu : s.ustep = .t1) : exec .boot s = .next (bootT1 s) := by
  simp only [exec, execBoot, hu]

/-- T2 enables the interrupt and ends BOOT (R205). -/
theorem exec_boot_t2 {s : State} (hu : s.ustep = .t2) : exec .boot s = .next (bootT2 s) := by
  simp only [exec, execBoot, hu]

/-- BOOT alone ends with its third micro-step (R205). -/
theorem runAlone_boot {s : State} (hu : s.ustep = .idle) (hk : s.schedStep = 0#3) :
    runAlone .boot 3 s = .next (bootT2 (bootT1 (bootT0 s))) := by
  rw [runAlone_succ_of_busy 2 (exec_boot_t0 hu hk) rfl, runAlone_succ_of_busy 1 (exec_boot_t1 rfl) rfl,
    runAlone_succ_of_done 0 (exec_boot_t2 rfl) rfl]

/-- Settles O44: each position is the line of R205 it is named after, and from reset the three lines follow one another. -/
theorem bootMicroSteps : Obligations.BootMicroSteps :=
  ⟨fun _ => ⟨exec_boot_t0, exec_boot_second, exec_boot_t1, fun hu => ⟨_, exec_boot_t2 hu, ended_finishR 0#3 _⟩⟩,
    _, runAlone_boot rfl rfl, rfl⟩

end Sys2Proof.Machine
end

section
/-! PROOFS. The receive interrupt as steps of the W sequencer (R222, R224 to R226), and the turns of Time and of EnvA
(R236, R241). -/

namespace Sys2Proof.Machine

/-! ## The handler's transition and the W sequencer's word (R93, R224, R226) -/

/-- A byte is available when the FIFO is not empty (R222). -/
theorem uartRxAvail_iff (s : State) : uartRxAvail s = true ↔ s.uart.rx ≠ [] := by
  simp [uartRxAvail]

/-- In IDLE the word is NOP (R93). -/
theorem wordW_of_idle {s : State} (h : s.isrState = .idle) : wordW s = 0x0000#16 := by
  simp only [wordW, h]

/-- With the FIFO empty the word is NOP (R93). -/
theorem wordW_of_empty {s : State} (h : s.uart.rx = []) : wordW s = 0x0000#16 := by
  have hnone : uartRxAvail s = false := by simp [uartRxAvail, h]
  cases hs : s.isrState <;> simp only [wordW, hs, hnone]

/-- In DRAIN with a byte available the word is RXBYTE (R93, R225). -/
theorem wordW_of_drain {s : State} (h : s.isrState = .drain) (hrx : s.uart.rx ≠ []) : wordW s = 0x3000#16 := by
  simp only [wordW, h, (uartRxAvail_iff s).2 hrx]

/-- The handler is entered in IDLE on a request (R222, R224). -/
theorem handlerTransition_of_request {s : State} (h : s.isrState = .idle) (hirq : s.irqEn = true)
    (hrx : s.uart.rx ≠ []) : handlerTransition s = enterHandler s := by
  simp only [handlerTransition, h, irq, hirq, (uartRxAvail_iff s).2 hrx, Bool.and_self, if_true]

/-- In IDLE with no request nothing happens (R222). -/
theorem handlerTransition_of_no_request {s : State} (h : s.isrState = .idle)
    (hirq : s.irqEn = false ∨ s.uart.rx = []) : handlerTransition s = s := by
  have hnone : irq s = false := by
    obtain h0 | h0 := hirq <;> simp [irq, uartRxAvail, h0]
  simp only [handlerTransition, h, hnone, Bool.false_eq_true, if_false]

/-- The handler goes on while a byte is available (R225). -/
theorem handlerTransition_of_drain {s : State} (h : s.isrState = .drain) (hrx : s.uart.rx ≠ []) :
    handlerTransition s = s := by
  simp only [handlerTransition, h, (uartRxAvail_iff s).2 hrx, if_true]

/-- The handler is left in DRAIN on an empty FIFO (R226). -/
theorem handlerTransition_of_drained {s : State} (h : s.isrState = .drain) (hrx : s.uart.rx = []) :
    handlerTransition s = leaveHandler s := by
  have hnone : uartRxAvail s = false := by simp [uartRxAvail, hrx]
  simp only [handlerTransition, h, hnone, Bool.false_eq_true, if_false]

/-! ## The W sequencer's turn between two RXBYTE (R224 to R226) -/

/-- Between two RXBYTE the W sequencer's turn is its word, run after the handler's transition (R142). -/
theorem step_of_agent_w_idle {s : State} (ht : nextTurn s = .agent .w) (hw : s.wstep = .idle) :
    step s = runWord .w (wordW (beginStep s)) (handlerTransition (beginStep s)) := by
  have hw' : (beginStep s).wstep = .idle := hw
  rw [step_of_agent_w ht, turnW, hw']

/-- Where its word is NOP, the turn makes the handler's transition and changes nothing else (R93, log 27). -/
theorem step_of_agent_w_nop {s : State} (ht : nextTurn s = .agent .w) (hw : s.wstep = .idle)
    (hnop : wordW (beginStep s) = 0x0000#16) :
    ∃ t, step s = .next t ∧ architectural t = architectural (handlerTransition (beginStep s)) := by
  rw [step_of_agent_w_idle ht hw, hnop, runWord_legal (i := .nop) (by decide)]
  exact ⟨_, rfl, rfl⟩

/-- Settles O11: in IDLE the word is NOP, and the request decides whether the transition is the entry or nothing. -/
theorem handlerIsEnteredOnRequest : Obligations.HandlerIsEnteredOnRequest := by
  intro s ht hw hidle
  obtain ⟨t, hstep, e⟩ := step_of_agent_w_nop ht hw (wordW_of_idle (s := beginStep s) hidle)
  refine ⟨fun hirq hrx => ⟨t, hstep, ?entered⟩, fun hnone => ⟨t, hstep, ?stays⟩⟩
  case entered => rw [e, handlerTransition_of_request (s := beginStep s) hidle hirq hrx]; rfl
  case stays => rw [e, handlerTransition_of_no_request (s := beginStep s) hidle hnone, architectural_beginStep]

/-- Settles O13: in DRAIN with a byte available no transition is made and the word is RXBYTE's. -/
theorem handlerBodyIssuesRxbyte : Obligations.HandlerBodyIssuesRxbyte := by
  intro s ht hw hdrain hrx
  rw [step_of_agent_w_idle ht hw, wordW_of_drain (s := beginStep s) hdrain hrx,
    handlerTransition_of_drain (s := beginStep s) hdrain hrx, runWord_legal (i := .rxbyte) (by decide), present]

/-- Settles O14: with the FIFO empty the word is NOP and the transition is the return. -/
theorem handlerReturnsWhenDrained : Obligations.HandlerReturnsWhenDrained := by
  intro s ht hw hdrain hrx
  obtain ⟨t, hstep, e⟩ := step_of_agent_w_nop ht hw (wordW_of_empty (s := beginStep s) hrx)
  rw [handlerTransition_of_drained (s := beginStep s) hdrain hrx] at e
  exact ⟨t, hstep, e⟩

/-! ## Time and the UART line (R236, R241) -/

/-- Settles O17: the turn of Time is `tick`, whose addition wraps at `2^32`. -/
theorem timeAdvancesByOne : Obligations.TimeAdvancesByOne :=
  fun s ht => ⟨_, step_of_agent ht, rfl, BitVec.toNat_add s.nowMs 1#32⟩

/-- EnvA's turn with the UART initialised and room in the FIFO appends the byte (R241). -/
theorem uartDeliver_of_enabled {s : State} (b : Byte) (hopen : s.uart.frame.isSome = true)
    (room : s.uart.rx.length < Config.UART_FIFO_DEPTH) :
    uartDeliver s b = { s with uart := { s.uart with rx := s.uart.rx ++ [b] } } := by
  obtain ⟨-, -, e⟩ | ⟨hno, -⟩ := uartDeliver_cases s b
  · exact e
  · exact absurd ⟨hopen, room⟩ hno

/-- EnvA's turn passes without effect where the step is not enabled (R241, log 15). -/
theorem uartDeliver_of_not_enabled {s : State} (b : Byte)
    (h : ¬(s.uart.frame.isSome = true ∧ s.uart.rx.length < Config.UART_FIFO_DEPTH)) : uartDeliver s b = s := by
  obtain ⟨hopen, room, -⟩ | ⟨-, e⟩ := uartDeliver_cases s b
  · exact absurd ⟨hopen, room⟩ h
  · exact e

/-- Settles O18: the turn of EnvA is `uartDeliver`, taken apart by its guard. -/
theorem uartLineDelivers : Obligations.UartLineDelivers := by
  intro s b ht
  refine ⟨fun hopen room => ⟨_, step_of_agent ht, ?joins⟩, fun hclosed => ⟨_, step_of_agent ht, ?closed⟩,
    fun hfull => ⟨_, step_of_agent ht, ?full⟩⟩
  case joins => rw [uartDeliver_of_enabled (s := beginStep s) b hopen room]; rfl
  case closed =>
    rw [uartDeliver_of_not_enabled (s := beginStep s) b (by simp [hclosed]), architectural_beginStep]
  case full =>
    rw [uartDeliver_of_not_enabled (s := beginStep s) b (fun h => absurd h.2 (Nat.not_lt.2 hfull)),
      architectural_beginStep]

end Sys2Proof.Machine
end
